-- ==== Sys2Proof/Word.lean ====
section
/-!
DEFINITION. The two word widths of UBXC (00_scope.md R8): the byte and the 16-bit quantity.
Everything the spec treats as bits is one of these, unsigned.
-/

namespace Sys2Proof

/-- A byte: 8 bits, unsigned (R8). -/
abbrev Byte := BitVec 8

/-- A 16-bit unsigned quantity: message ids, lengths, counts, PB addresses, `io_code`. -/
abbrev Half := BitVec 16

end Sys2Proof
end

