-- ==== Sys2Proof/Config.lean ====
section
/-!
DEFINITION. The configuration record of 00_scope.md R7, and the free values: what the spec leaves to
the platform or to the parties outside UBXC. A free value is an opaque constant; nothing in Lean can
evaluate it, so a theorem that meets one holds whatever it is.
-/

namespace Sys2Proof

/-- The parameters of R7 that a machine is built with. `CAP` is not among them: it is the operand of
INIT (D18). `IDLE_W` is fixed at 16 bits (D8) and `IoError` at 16 bits (D20, R204). -/
structure Params where
  /-- `SYNC1_VALUE`. -/
  sync1 : Byte
  /-- `SYNC2_VALUE`. -/
  sync2 : Byte
  /-- `IDLE_VALUE`. -/
  idle : Byte
  /-- `IDLE_BOUND`. -/
  idleBound : Nat
  /-- `CHUNK_LEN`. -/
  chunkLen : Nat
  /-- `CK2_STRICT`. -/
  ck2Strict : Bool
  /-- `ACK_ACK_ID`. -/
  ackAckId : Half
  /-- `ACK_NAK_ID`. -/
  ackNakId : Half
  /-- ACK/NAK payload layout (30_encoding.md R84, U17): the payload byte that is the acknowledged class. -/
  ackClassAt : Nat
  /-- ACK/NAK payload layout: the payload byte that is the acknowledged id. -/
  ackIdAt : Nat
  deriving DecidableEq, Repr

/-- The constraints R7 puts on the parameters (93_implementation_defined.md U14). -/
def Params.valid (p : Params) : Bool :=
  p.sync1 != p.idle && p.ackAckId != p.ackNakId &&
    decide (1 ≤ p.idleBound) && decide (p.idleBound ≤ 65535) && decide (1 ≤ p.chunkLen)

/-- The shortest payload that holds both bytes of the ACK/NAK layout: 2 in the spec's layout
(42_strategies.md R143, assumption log 35). -/
def Params.ackLen (p : Params) : Nat := max p.ackClassAt p.ackIdAt + 1

/-- The transport's answer to one transaction (60_exceptions.md R215): it succeeds; it fails with an
`IoError`, `sent` bytes of a transceive's frame having reached the device (U16: a parameter of the
transport; the spec's default is 0); or it never answers (U12). -/
inductive TpAnswer where
  | ok
  | err (e : Half) (sent : Nat)
  | silent
  deriving DecidableEq, Repr, Inhabited

/-- The API consumer's answer to one frame-accept event (42_strategies.md R146): STOP, CONTINUE, or
none ever (U12). -/
inductive ApiAnswer where
  | stop
  | cont
  | silent
  deriving DecidableEq, Repr, Inhabited

/-- The code of an answer at the API port, one bit: 0 = CONTINUE, 1 = STOP (30_encoding.md R81). A consumer
that never answers sends none. -/
def ApiAnswer.code : ApiAnswer → Option (BitVec 1)
  | .cont => some 0
  | .stop => some 1
  | .silent => none

/-- FREE VALUE (assumption log 3): `CK2_STRICT` of the machine that comes out of power-on (D4, open). -/
opaque Config.ck2Strict : Bool

/-- FREE VALUE (assumption log 4): `CHUNK_LEN` less one of the machine that comes out of power-on
(D19, open, at least 1). -/
opaque Config.chunkLenLessOne : Nat

/-- FREE VALUE (assumption log 6): what an address of PB holds that nothing has written (U8, U9). -/
opaque Config.powerOnPB : Nat → Byte

/-- FREE VALUE (assumption log 11): byte `k` of an unscripted transaction, by the counter. -/
opaque Config.rxByte : Nat → Nat → Byte

/-- FREE VALUE (assumption log 10): the answer to an unscripted transaction, by the counter (U10). -/
opaque Config.tpAnswer : Nat → TpAnswer

/-- FREE VALUE (assumption log 12): the answer to an unscripted API event, by the counter (U11). -/
opaque Config.apiAnswer : Nat → ApiAnswer

/-- FREE VALUE (assumption log 22): the predicate `differs` of host routine `k` (44_command_idiom.md R190). -/
opaque Config.hostDiffers : Nat → List Byte → Bool

/-- FREE VALUE (assumption log 22): byte `i` of what `apply` of host routine `k` makes of a payload (R190). -/
opaque Config.hostApply : Nat → List Byte → Nat → Byte

/-- The parameters of R7 at power-on: the source's values (`IDLE_VALUE`, `IDLE_BOUND`), the defaults
from general knowledge (assumption log 2, PRESUMED), and free values for the two the spec leaves open. -/
def Params.default : Params where
  sync1 := 0xB5
  sync2 := 0x62
  idle := 0xFF
  idleBound := 50
  chunkLen := Config.chunkLenLessOne + 1
  ck2Strict := Config.ck2Strict
  ackAckId := 0x0501
  ackNakId := 0x0500
  ackClassAt := 0
  ackIdAt := 1

end Sys2Proof
end

