-- ==== Sys2Proof/Syntax.lean ====
section
/-!
DEFINITION. The instructions of UBXC: one constructor per row of spec/opcode_table.json, and the
enumerations their operands use. "Instruction" is read as 00_scope.md R5 reads it.
-/

namespace Sys2Proof

/-- The nine decoder states in the source's order (10_state.md R21). Codes 9 to 15 are reserved and
unreachable (R79, U15), so the register is an enumeration. -/
inductive DecState where
  | sync1 | sync2 | cls | id | length1 | length2 | payload | chksum1 | chksum2
  deriving DecidableEq, Repr

/-- The strategy codes of `int_cb` (10_state.md R28); code 3 is reserved. -/
inductive Strategy where
  | none | matchReply | matchAcknak
  deriving DecidableEq, Repr

/-- Which accumulator pair a checksum operation works on: the receive pair `ck_a`, `ck_b` or the
transmit pair `tx_ck_a`, `tx_ck_b` (40_checksum.md: CK owns no register of its own). -/
inductive CkPair where
  | rx | tx
  deriving DecidableEq, Repr

/-- The host's `differs` and `apply` of POLL_MODIFY_SEND (44_command_idiom.md R190): a list of desired
bytes (offset, value), or the uninterpreted host routine number `k`. -/
inductive Edit where
  | patch (ps : List (Nat × Byte))
  | routine (k : Nat)
  deriving DecidableEq, Repr

/-- The opcode table, row by row. The byte of a decoder row is an operand unless the row fixes it. -/
inductive Instr where
  -- DEC: one FEED, selected by the decode word {state, byte} (30_encoding.md R76)
  | s1Sync
  | s1Idle
  | s1Other (x : Byte)
  | s2Match
  | s2Miss (x : Byte)
  | decClass (x : Byte)
  | decId (x : Byte)
  | len1 (x : Byte)
  | len2Zero
  | len2Nz (x : Byte)
  | payOverrun (x : Byte)
  | payStore (x : Byte)
  | payLast (x : Byte)
  | ck1Match (x : Byte)
  | ck1Miss (x : Byte)
  | ck2Match (x : Byte)
  | ck2Miss (x : Byte)
  -- CMD: the command port's word {opcode, A, B} (30_encoding.md R86)
  | init (api : Bool) (cap : Half)
  | sendNoWait (id n : Half)
  | sendWaitReply (id n : Half)
  | sendWaitAck (id n : Half)
  | readAll
  | cmdReserved5
  | cmdReserved6
  | cmdReserved7
  -- STRATEGY: selected inside ACCEPT by `int_cb` (42_strategies.md R141 to R143)
  | stratNone
  | stratMatchReply (id n : Half)
  | stratMatchAcknak (id n : Half)
  -- MSGID: the two ids MATCH_ACKNAK recognises (30_encoding.md R82), with the frame's length
  | msgidAckAck (n : Half)
  | msgidAckNak (n : Half)
  -- MICRO: not externally selected
  | feed (x : Byte)
  | resetDec
  | ckInit (p : CkPair)
  | ckUpdate (p : CkPair) (x : Byte)
  | accept (id n : Half)
  | apiDeliver (id n : Half)
  | encodeFrame (id n : Half)
  | txrx (id n : Half)
  | feedChunk (c : List Byte)
  | readChunk
  | sessionBegin (st : Strategy)
  | sessionLoop
  | exchange (id n : Half) (st : Strategy)
  | scan (st : Strategy)
  -- PSEUDO (30_encoding.md R89)
  | ckFold (p : CkPair) (xs : List Byte)
  | feedBulk (xs : List Byte)
  | pollModifySend (id : Half) (poll : Option Byte) (e : Edit)
  | poll (id : Half)
  | poll1 (id : Half) (b : Byte)
  deriving DecidableEq, Repr

/-- The formats of the opcode table. -/
inductive Format where
  | dec | cmd | strategy | msgid | micro | pseudo
  deriving DecidableEq, Repr

/-- The format of each row, as spec/opcode_table.json gives it. -/
def Instr.format : Instr → Format
  | .s1Sync | .s1Idle | .s1Other _ | .s2Match | .s2Miss _ | .decClass _ | .decId _ | .len1 _
  | .len2Zero | .len2Nz _ | .payOverrun _ | .payStore _ | .payLast _ | .ck1Match _ | .ck1Miss _
  | .ck2Match _ | .ck2Miss _ => .dec
  | .init _ _ | .sendNoWait _ _ | .sendWaitReply _ _ | .sendWaitAck _ _ | .readAll
  | .cmdReserved5 | .cmdReserved6 | .cmdReserved7 => .cmd
  | .stratNone | .stratMatchReply _ _ | .stratMatchAcknak _ _ => .strategy
  | .msgidAckAck _ | .msgidAckNak _ => .msgid
  | .feed _ | .resetDec | .ckInit _ | .ckUpdate _ _ | .accept _ _ | .apiDeliver _ _
  | .encodeFrame _ _ | .txrx _ _ | .feedChunk _ | .readChunk | .sessionBegin _ | .sessionLoop
  | .exchange _ _ _ | .scan _ => .micro
  | .ckFold _ _ | .feedBulk _ | .pollModifySend _ _ _ | .poll _ | .poll1 _ _ => .pseudo

end Sys2Proof
end

