-- ==== Sys2Proof/WellFormed.lean ====
section
/-!
DEFINITION. What makes an instruction well formed: the operand values its row of the opcode table
admits. Conditions on registers are no part of this; they are the decoder's selection (Decode.lean).
-/

namespace Sys2Proof

/-- The offsets of a patch rise strictly and address a payload byte (a payload has at most 65535). -/
def risingOffsets : List (Nat × Byte) → Bool
  | [] => true
  | [(k, _)] => decide (k < 65535)
  | (k, _) :: (j, w) :: ps => decide (k < j) && risingOffsets ((j, w) :: ps)

/-- Longest chunk one transaction returns: max(CHUNK_LEN, 8 + 65535) bytes (10_state.md R41). -/
def Params.maxChunk (p : Params) : Nat := max p.chunkLen 65543

/-- The operands an instruction's row admits: `S1_OTHER` is any byte but `SYNC1_VALUE` and `IDLE_VALUE`
(R114), `S2_MISS` any byte but `SYNC2_VALUE` (R116), a chunk is what one transaction returns (R41, R163),
and the desired bytes of POLL_MODIFY_SEND are listed by rising offset. Every other operand is free. -/
def Instr.wellFormed (p : Params) : Instr → Bool
  | .s1Other x => x != p.sync1 && x != p.idle
  | .s2Miss x => x != p.sync2
  | .feedChunk c => decide (c.length ≤ p.maxChunk)
  | .pollModifySend _ _ (.patch ps) => risingOffsets ps
  | .pollModifySend _ _ (.routine _) => true
  | .s1Sync | .s1Idle | .s2Match | .decClass _ | .decId _ | .len1 _ | .len2Zero | .len2Nz _
  | .payOverrun _ | .payStore _ | .payLast _ | .ck1Match _ | .ck1Miss _ | .ck2Match _ | .ck2Miss _
  | .init _ _ | .sendNoWait _ _ | .sendWaitReply _ _ | .sendWaitAck _ _ | .readAll
  | .cmdReserved5 | .cmdReserved6 | .cmdReserved7
  | .stratNone | .stratMatchReply _ _ | .stratMatchAcknak _ _ | .msgidAckAck _ | .msgidAckNak _
  | .feed _ | .resetDec | .ckInit _ | .ckUpdate _ _ | .accept _ _ | .apiDeliver _ _
  | .encodeFrame _ _ | .txrx _ _ | .readChunk | .sessionBegin _ | .sessionLoop | .exchange _ _ _
  | .scan _ | .ckFold _ _ | .feedBulk _ | .poll _ | .poll1 _ _ => true

end Sys2Proof
end

