-- ==== Sys2Proof/Decode.lean ====
section
/-!
DEFINITION. Decoding: from a word to an instruction, or a rejection by name; and the encoder, from the
same tables. UBXC has four encoding spaces that never meet in one place (30_encoding.md): the decode word
{state, byte} of a FEED (R76), the command word (R86), the strategy code in `int_cb` (R28) and the
message id of an accepted frame (R82). A FEED's row also depends on registers (R76): the decoder takes
them as a context.
-/

namespace Sys2Proof

/-- The code of a decoder state (10_state.md R21). -/
def DecState.code : DecState → BitVec 4
  | .sync1 => 0
  | .sync2 => 1
  | .cls => 2
  | .id => 3
  | .length1 => 4
  | .length2 => 5
  | .payload => 6
  | .chksum1 => 7
  | .chksum2 => 8

/-- The state a code names; codes 9 to 15 are reserved (30_encoding.md R79). -/
def DecState.ofCode? (c : BitVec 4) : Option DecState :=
  match c.toNat with
  | 0 => some .sync1
  | 1 => some .sync2
  | 2 => some .cls
  | 3 => some .id
  | 4 => some .length1
  | 5 => some .length2
  | 6 => some .payload
  | 7 => some .chksum1
  | 8 => some .chksum2
  | _ => none

/-- The code of a strategy in `int_cb` (10_state.md R28). -/
def Strategy.code : Strategy → BitVec 2
  | .none => 0
  | .matchReply => 1
  | .matchAcknak => 2

/-- Why a word is no instruction. -/
inductive Reject where
  /-- `state` code 9 to 15 (R79). -/
  | reservedState
  /-- `int_cb` code 3 (R79). -/
  | reservedStrategy
  /-- A message id UBXC gives no meaning to (R82, R83). -/
  | opaqueMsgId
  deriving DecidableEq, Repr

/-- The registers a FEED's selection reads (R76). -/
structure DecCtx where
  len : Half
  cnt : Half
  cap : Half
  ckA : Byte
  ckB : Byte
  deriving DecidableEq, Repr

/-- Low byte of a 16-bit register, `v[7:0]` (R8). -/
def lowByte (v : Half) : Byte := v.setWidth 8

/-- High byte of a 16-bit register, `v[15:8]` (R8). -/
def highByte (v : Half) : Byte := (v >>> 8).setWidth 8

/-- The row a FEED selects: R76's table, rows of one state top to bottom. A `cnt + 1` past `len` cannot be
reached; R110 gives it `PAY_STORE` (assumption log 18). -/
def selectRow (p : Params) (r : DecCtx) (st : DecState) (x : Byte) : Instr :=
  match st with
  | .sync1 => if x = p.sync1 then .s1Sync else if x = p.idle then .s1Idle else .s1Other x
  | .sync2 => if x = p.sync2 then .s2Match else .s2Miss x
  | .cls => .decClass x
  | .id => .decId x
  | .length1 => .len1 x
  | .length2 => if x = 0 ∧ lowByte r.len = 0 then .len2Zero else .len2Nz x
  | .payload =>
    if r.cap.toNat ≤ r.cnt.toNat then .payOverrun x
    else if r.cnt + 1 = r.len then .payLast x
    else .payStore x
  | .chksum1 => if x = r.ckA then .ck1Match x else .ck1Miss x
  | .chksum2 => if x = r.ckB then .ck2Match x else .ck2Miss x

/-- The decode word `{state[3:0], byte[7:0]}` (R76). -/
def decodeWord (st : DecState) (x : Byte) : BitVec 12 := st.code ++ x

/-- Decode a FEED's decode word in the context of the registers. -/
def decodeDec (p : Params) (r : DecCtx) (w : BitVec 12) : Except Reject Instr :=
  match DecState.ofCode? (w.extractLsb' 8 4) with
  | none => .error .reservedState
  | some st => .ok (selectRow p r st (w.extractLsb' 0 8))

/-- Decode a command word `{opcode[34:32], A[31:16], B[15:0]}` (R86). Every word is a row; the ignored
bits are dropped. -/
def decodeCmd (w : BitVec 35) : Instr :=
  let a : Half := w.extractLsb' 16 16
  let b : Half := w.extractLsb' 0 16
  match (w.extractLsb' 32 3).toNat with
  | 0 => .init (a.getLsbD 0) b
  | 1 => .sendNoWait a b
  | 2 => .sendWaitReply a b
  | 3 => .sendWaitAck a b
  | 4 => .readAll
  | 5 => .cmdReserved5
  | 6 => .cmdReserved6
  | _ => .cmdReserved7

/-- Decode a strategy code, for the accepted frame `(id, n)` (R28, R140). -/
def decodeStrategy (w : BitVec 2) (id n : Half) : Except Reject Instr :=
  match w.toNat with
  | 0 => .ok .stratNone
  | 1 => .ok (.stratMatchReply id n)
  | 2 => .ok (.stratMatchAcknak id n)
  | _ => .error .reservedStrategy

/-- Decode the message id of an accepted frame of length `n` as MATCH_ACKNAK does (R82, R143). -/
def decodeMsgId (p : Params) (w : BitVec 16) (n : Half) : Except Reject Instr :=
  if w = p.ackAckId then .ok (.msgidAckAck n)
  else if w = p.ackNakId then .ok (.msgidAckNak n)
  else .error .opaqueMsgId

/-- A word of one of the four encoding spaces. The strategy code and the message id travel with the
accepted frame's operands. -/
inductive Code where
  | dec (w : BitVec 12)
  | cmd (w : BitVec 35)
  | strategy (w : BitVec 2) (id n : Half)
  | msgid (w : BitVec 16) (n : Half)
  deriving DecidableEq, Repr

/-- The format a word belongs to. -/
def Code.format : Code → Format
  | .dec _ => .dec
  | .cmd _ => .cmd
  | .strategy _ _ _ => .strategy
  | .msgid _ _ => .msgid

/-- The decoder: total on every word of every space. -/
def decode (p : Params) (r : DecCtx) : Code → Except Reject Instr
  | .dec w => decodeDec p r w
  | .cmd w => .ok (decodeCmd w)
  | .strategy w id n => decodeStrategy w id n
  | .msgid w n => decodeMsgId p w n

/-- A command word from its three fields (R86). -/
def cmdWord (opcode : BitVec 3) (a b : Half) : BitVec 35 := opcode ++ a ++ b

/-- The encoder: the word of an instruction, from R76, R86, R28 and R82. Micro-operations and
pseudo-instructions have none. Bits a command ignores are encoded as 0. -/
def encode (p : Params) : Instr → Option Code
  | .s1Sync => some (.dec (decodeWord .sync1 p.sync1))
  | .s1Idle => some (.dec (decodeWord .sync1 p.idle))
  | .s1Other x => some (.dec (decodeWord .sync1 x))
  | .s2Match => some (.dec (decodeWord .sync2 p.sync2))
  | .s2Miss x => some (.dec (decodeWord .sync2 x))
  | .decClass x => some (.dec (decodeWord .cls x))
  | .decId x => some (.dec (decodeWord .id x))
  | .len1 x => some (.dec (decodeWord .length1 x))
  | .len2Zero => some (.dec (decodeWord .length2 0))
  | .len2Nz x => some (.dec (decodeWord .length2 x))
  | .payOverrun x => some (.dec (decodeWord .payload x))
  | .payStore x => some (.dec (decodeWord .payload x))
  | .payLast x => some (.dec (decodeWord .payload x))
  | .ck1Match x => some (.dec (decodeWord .chksum1 x))
  | .ck1Miss x => some (.dec (decodeWord .chksum1 x))
  | .ck2Match x => some (.dec (decodeWord .chksum2 x))
  | .ck2Miss x => some (.dec (decodeWord .chksum2 x))
  | .init api cap => some (.cmd (cmdWord 0 (if api then 1 else 0) cap))
  | .sendNoWait id n => some (.cmd (cmdWord 1 id n))
  | .sendWaitReply id n => some (.cmd (cmdWord 2 id n))
  | .sendWaitAck id n => some (.cmd (cmdWord 3 id n))
  | .readAll => some (.cmd (cmdWord 4 0 0))
  | .cmdReserved5 => some (.cmd (cmdWord 5 0 0))
  | .cmdReserved6 => some (.cmd (cmdWord 6 0 0))
  | .cmdReserved7 => some (.cmd (cmdWord 7 0 0))
  | .stratNone => some (.strategy Strategy.none.code 0 0)
  | .stratMatchReply id n => some (.strategy Strategy.matchReply.code id n)
  | .stratMatchAcknak id n => some (.strategy Strategy.matchAcknak.code id n)
  | .msgidAckAck n => some (.msgid p.ackAckId n)
  | .msgidAckNak n => some (.msgid p.ackNakId n)
  | .feed _ | .resetDec | .ckInit _ | .ckUpdate _ _ | .accept _ _ | .apiDeliver _ _
  | .encodeFrame _ _ | .txrx _ _ | .feedChunk _ | .readChunk | .sessionBegin _ | .sessionLoop
  | .exchange _ _ _ | .scan _ | .ckFold _ _ | .feedBulk _ | .pollModifySend _ _ _ | .poll _
  | .poll1 _ _ => none

/-- Whether R76 selects this decoder row in decoder state `st` with registers `r`, for the byte the row
names: the table's conditions written out row by row. False of an instruction that is no decoder row. -/
def rowSelected (p : Params) (r : DecCtx) (st : DecState) : Instr → Bool
  | .s1Sync => st == .sync1
  | .s1Idle => st == .sync1 && p.idle != p.sync1
  | .s1Other x => st == .sync1 && x != p.sync1 && x != p.idle
  | .s2Match => st == .sync2
  | .s2Miss x => st == .sync2 && x != p.sync2
  | .decClass _ => st == .cls
  | .decId _ => st == .id
  | .len1 _ => st == .length1
  | .len2Zero => st == .length2 && lowByte r.len == 0
  | .len2Nz x => st == .length2 && !(x == 0 && lowByte r.len == 0)
  | .payOverrun _ => st == .payload && decide (r.cap.toNat ≤ r.cnt.toNat)
  | .payStore _ => st == .payload && decide (r.cnt.toNat < r.cap.toNat) && r.cnt + 1 != r.len
  | .payLast _ => st == .payload && decide (r.cnt.toNat < r.cap.toNat) && r.cnt + 1 == r.len
  | .ck1Match x => st == .chksum1 && x == r.ckA
  | .ck1Miss x => st == .chksum1 && x != r.ckA
  | .ck2Match x => st == .chksum2 && x == r.ckB
  | .ck2Miss x => st == .chksum2 && x != r.ckB
  | .init _ _ | .sendNoWait _ _ | .sendWaitReply _ _ | .sendWaitAck _ _ | .readAll
  | .cmdReserved5 | .cmdReserved6 | .cmdReserved7
  | .stratNone | .stratMatchReply _ _ | .stratMatchAcknak _ _ | .msgidAckAck _ | .msgidAckNak _
  | .feed _ | .resetDec | .ckInit _ | .ckUpdate _ _ | .accept _ _ | .apiDeliver _ _
  | .encodeFrame _ _ | .txrx _ _ | .feedChunk _ | .readChunk | .sessionBegin _ | .sessionLoop
  | .exchange _ _ _ | .scan _ | .ckFold _ _ | .feedBulk _ | .pollModifySend _ _ _ | .poll _
  | .poll1 _ _ => false

/-- The byte a decoder row is about: the one it fixes, or its operand (R76). -/
def rowByte (p : Params) : Instr → Option Byte
  | .s1Sync => some p.sync1
  | .s1Idle => some p.idle
  | .s2Match => some p.sync2
  | .len2Zero => some 0
  | .s1Other x | .s2Miss x | .decClass x | .decId x | .len1 x | .len2Nz x | .payOverrun x
  | .payStore x | .payLast x | .ck1Match x | .ck1Miss x | .ck2Match x | .ck2Miss x => some x
  | .init _ _ | .sendNoWait _ _ | .sendWaitReply _ _ | .sendWaitAck _ _ | .readAll
  | .cmdReserved5 | .cmdReserved6 | .cmdReserved7
  | .stratNone | .stratMatchReply _ _ | .stratMatchAcknak _ _ | .msgidAckAck _ | .msgidAckNak _
  | .feed _ | .resetDec | .ckInit _ | .ckUpdate _ _ | .accept _ _ | .apiDeliver _ _
  | .encodeFrame _ _ | .txrx _ _ | .feedChunk _ | .readChunk | .sessionBegin _ | .sessionLoop
  | .exchange _ _ _ | .scan _ | .ckFold _ _ | .feedBulk _ | .pollModifySend _ _ _ | .poll _
  | .poll1 _ _ => none

/-- The registers a decode word of the bare opcode table is read with: all zero, as at power-on and after
INIT with an empty buffer. -/
def DecCtx.zero : DecCtx where
  len := 0
  cnt := 0
  cap := 0
  ckA := 0
  ckB := 0

/-- The word of the opcode table that `nbits` and `w` spell (assumption log 19). A strategy word is one
byte, a decode word and a message id two, a command word five. Two bytes that spell one of the two message
ids exactly are that id (its row fixes all 16 bits); otherwise they are a decode word in the low 12. The
operands the table gives no bits are 0 (assumption log 21). -/
def tableCode (p : Params) (nbits w : Nat) : Option Code :=
  if nbits ≤ 8 then
    if w < 4 then some (.strategy (BitVec.ofNat 2 w) 0 0) else none
  else if nbits ≤ 12 then
    if w < 4096 then some (.dec (BitVec.ofNat 12 w)) else none
  else if nbits ≤ 16 then
    if w = p.ackAckId.toNat ∨ w = p.ackNakId.toNat then some (.msgid (BitVec.ofNat 16 w) 0)
    else if w < 4096 then some (.dec (BitVec.ofNat 12 w))
    else none
  else if nbits ≤ 40 then
    if w < 34359738368 then some (.cmd (BitVec.ofNat 35 w)) else none
  else none

/-- The instruction this decoder reads from a word of the opcode table: with the default parameters and
the registers zero. -/
def decodeTableWord (nbits w : Nat) : Option Instr :=
  match tableCode Params.default nbits w with
  | none => none
  | some c => (decode Params.default DecCtx.zero c).toOption

end Sys2Proof
end

