-- ==== Sys2Proof/Machine/State.lean ====
section
/-!
DEFINITION. The state of UBXC: the registers of 10_state.md R20, the payload buffer, the transport
streams, the hidden chunk buffer, the answers of the parties outside, and the model's own control and
result latches (assumption log 9). Plain data throughout.
-/

namespace Sys2Proof.Machine

/-- The result of a FEED or of a frame consumer (30_encoding.md R81). -/
inductive FeedResult where
  | parsing | stop | cont
  deriving DecidableEq, Repr

/-- `match_result` (10_state.md R31). -/
inductive MatchResult where
  | none | replied | acked | naked
  deriving DecidableEq, Repr

/-- The outcome of a command (10_state.md R34, 60_exceptions.md R203). -/
inductive CmdOutcome where
  | ok | ackRejected | timeout | ioError
  deriving DecidableEq, Repr

/-- `dphase` (10_state.md R36). -/
inductive DPhase where
  | idle | txrx | scan
  deriving DecidableEq, Repr

/-- What a dispatcher operation returned (43_dispatcher.md R162, R164, R166). -/
inductive SessRes where
  | done | stopped | timedOut
  | failed (e : Half)
  deriving DecidableEq, Repr

/-- The command in progress, for its outcome rule (43_dispatcher.md R171 to R174). -/
inductive CmdKind where
  | noWait | reply | ack | readAll
  deriving DecidableEq, Repr

/-- What the dispatcher does next (assumption log 9): an operation, or the line of R160 to R190's
pseudocode that stands after one. -/
inductive Cont where
  /-- Perform the operation. -/
  | run (i : Instr)
  /-- "if r = FAILED(e) then return FAILED(e)", then SESSION_LOOP (R166, R168). -/
  | loopUnlessFailed
  /-- "if r = FAILED(e) then FINISH_IO(e); return", else SCAN(MATCH_ACKNAK) (R173). -/
  | scanUnlessFailed
  /-- The command's outcome, FINISH or FINISH_IO (R171 to R174, R176). -/
  | finish (k : CmdKind)
  /-- The host's compare and conditional send (44_command_idiom.md R190). -/
  | compare (id : Half) (e : Edit)
  deriving DecidableEq, Repr

/-- What the RX stream holds past its listed bytes (60_exceptions.md R215 item 3, assumption log 11):
idle fill for ever, or anything. -/
inductive RxTail where
  | quiet | free
  deriving DecidableEq, Repr

/-- One action of the host at the CMD port or the PB port, or one of its idioms (00_scope.md R6,
30_encoding.md R89). -/
inductive HostAct where
  | cmd (w : BitVec 35)
  | pbWrite (a : Half) (v : Byte)
  | pbRead (a : Half)
  | poll (id : Half)
  | poll1 (id : Half) (b : Byte)
  | pollModifySend (id : Half) (poll : Option Byte) (e : Edit)
  deriving DecidableEq, Repr

/-- The model's trace (assumption log 27): R200's five events, each frame-accept event (R140), each
delivery at the API port (R87), each transaction with its length and whether it succeeded (R180). -/
inductive TraceEvent where
  | feSync2 | feOverrun | feCkA | feCkB | ckBIgnored
  | accepted (id n : Half)
  | delivered (id n : Half)
  | transceive (m : Nat) (ok : Bool)
  | read (m : Nat) (ok : Bool)
  deriving DecidableEq, Repr

/-- The payload buffer's bytes: address and value, addresses strictly rising. An unlisted address has no
value here: it is unspecified (20_memory.md R63, assumption log 6). -/
abbrev Memory := List Host.Cell

/-- The machine. -/
structure State where
  /-- The configuration record of R7; no step writes it (assumption log 5). -/
  cfg : Params
  -- DEC, registers 0 to 9 of R20
  state : DecState
  ckA : Byte
  ckB : Byte
  msgId : Half
  len : Half
  cnt : Half
  cap : Half
  idleRun : Half
  intCb : Strategy
  apiEn : Bool
  -- DSP, registers 10 to 19 of R20
  awaitId : Half
  matchResult : MatchResult
  rxLen : Half
  stopSeen : Bool
  outcome : CmdOutcome
  ioCode : Half
  dphase : DPhase
  txCkA : Byte
  txCkB : Byte
  inited : Bool
  -- the payload buffer PB (R39)
  pb : Memory
  -- the transport port's streams (R40) and the transport's coming answers (R42)
  tx : List Byte
  rx : List Byte
  rxTail : RxTail
  tp : List TpAnswer
  -- the API consumer's coming answers (R42)
  api : List ApiAnswer
  -- the host's coming actions (R42)
  host : List HostAct
  -- the chunk buffer (R41)
  chunk : List Byte
  -- the model's own: control, results, PB port answer, trace, counter of the free values
  todo : List Cont
  feedRes : FeedResult
  ret : SessRes
  txFrame : List Byte
  pbPort : Byte
  trace : List TraceEvent
  fresh : Nat
  deriving DecidableEq, Repr

/-- Why the machine stops with a fault. -/
inductive Fault where
  /-- An access to PB at or above `cap` (20_memory.md R50, 93_implementation_defined.md U7 `fault`).
  Raised by ENCODE, MATCH_ACKNAK and its two message ids, the payload store and the host's compare; no
  step of a machine that meets the invariant raises it. Safe. -/
  | pbOutOfRange
  /-- The transport never answers (U12 `stuck`). Raised by TXRX and READ_CHUNK. Safe. -/
  | transportSilent
  /-- The API consumer never answers (42_strategies.md R146, U12 `stuck`). Raised by API_DELIVER. Safe. -/
  | consumerSilent
  deriving DecidableEq, Repr

/-- Why an instruction is given no step. -/
inductive Refusal where
  /-- The instruction has no meaning in this model yet. Raised by exec's arms only. Safe. -/
  | notModelled (mnemonic : String)
  /-- A command other than INIT, or a host access to PB, before INIT (43_dispatcher.md R175 (a), U3). Safe. -/
  | notInitialised
  /-- Command opcode 5, 6 or 7 (R175 (b), U2). Safe. -/
  | reservedCommand
  /-- A send with `n > cap` (R175 (c), U4). Safe. -/
  | sendTooLong
  /-- A command while `dphase` is not D_IDLE (R175 (d), U5). Safe. -/
  | busy
  /-- A host access to PB while `dphase` is not D_IDLE (20_memory.md R60, U6; assumption log 36). Safe. -/
  | hostWhileBusy
  /-- A host access to PB at or above `cap` (R50, U7; a refusal by assumption log 36). Safe. -/
  | hostOutsidePB
  /-- A decoder row where 30_encoding.md R76 does not select it (assumption log 17). Safe. -/
  | rowNotSelected
  /-- A frame-accept event at an API port with no consumer attached (10_state.md R29, assumption log 28). Safe. -/
  | noConsumer
  /-- A decode word with a reserved state code (R79, U15); no state of this model has one. Safe. -/
  | reservedDecodeWord
  deriving DecidableEq, Repr

/-- Power-on (70_reset_and_hazards.md R230, 10_state.md R44): `inited` = 0 and `dphase` = D_IDLE. Every
other register is unspecified there; it holds the value assumption log 1 names. PB is unspecified, so
nothing is listed. The parties outside have no script, so they answer anything. -/
def State.reset : State where
  cfg := Params.default
  state := .sync1
  ckA := 0
  ckB := 0
  msgId := 0
  len := 0
  cnt := 0
  cap := 0
  idleRun := 0
  intCb := .none
  apiEn := false
  awaitId := 0
  matchResult := .none
  rxLen := 0
  stopSeen := false
  outcome := .ok
  ioCode := 0
  dphase := .idle
  txCkA := 0
  txCkB := 0
  inited := false
  pb := []
  tx := []
  rx := []
  rxTail := .free
  tp := []
  api := []
  host := []
  chunk := []
  todo := []
  feedRes := .parsing
  ret := .done
  txFrame := []
  pbPort := 0
  trace := []
  fresh := 0

end Sys2Proof.Machine
end

