-- ==== Sys2Proof/Machine/Operands.lean ====
section
/-!
DEFINITION. The values operations compute: checksum arithmetic (40_checksum.md), byte assembly and the
saturating count (R104), the wire frame (30_encoding.md R70), the host's edit of a payload (R190), and the
numbered view of the registers (10_state.md R20).
-/

namespace Sys2Proof.Machine

/-- `CK_INIT`: the seed is (0, 0) (40_checksum.md R100). -/
def ckInit : Byte × Byte := (0, 0)

/-- `CK_UPDATE` (R101): `a' = (a + x) mod 256`, `b' = (b + a') mod 256`. -/
def ckUpdate (acc : Byte × Byte) (x : Byte) : Byte × Byte :=
  (acc.1 + x, acc.2 + (acc.1 + x))

/-- `CK_FOLD` (R102): CK_UPDATE over every byte in order. -/
def ckFold (acc : Byte × Byte) : List Byte → Byte × Byte
  | [] => acc
  | x :: rest => ckFold (ckUpdate acc x) rest

/-- `sat_inc_16` (00_scope.md R8). -/
def satInc16 (v : Half) : Half := if v.toNat < 65535 then v + 1 else v

/-- `{hi, lo}`: 16-bit assembly, exact (R104). -/
def joinBytes (hi lo : Byte) : Half := hi ++ lo

/-- `zext_16` (R8). -/
def zext16 (x : Byte) : Half := x.setWidth 16

/-- CLASS, ID, LEN_LO, LEN_HI: the covered header of a frame (30_encoding.md R70, R72, R73). -/
def frameHeader (id n : Half) : List Byte := [highByte id, lowByte id, lowByte n, highByte n]

/-- The checksum of a frame: CK_FOLD from (0, 0) of class through last payload byte (R74). -/
def frameChecksum (id n : Half) (payload : List Byte) : Byte × Byte :=
  ckFold ckInit (frameHeader id n ++ payload)

/-- The wire frame (R70): sync bytes, header, payload, CK_A, CK_B. -/
def frameBytes (p : Params) (id n : Half) (payload : List Byte) : List Byte :=
  [p.sync1, p.sync2] ++ (frameHeader id n ++ payload) ++
    [(frameChecksum id n payload).1, (frameChecksum id n payload).2]

/-- `apply` of POLL_MODIFY_SEND (44_command_idiom.md R190): a record of the same length. A patch sets its
desired bytes; a host routine is uninterpreted (assumption log 22). -/
def editApply (e : Edit) (cur : List Byte) : List Byte :=
  match e with
  | .patch ps => cur.mapIdx fun i b => (ps.lookup i).getD b
  | .routine k => cur.mapIdx fun i _ => Config.hostApply k cur i

/-- `differs` of POLL_MODIFY_SEND (R190): some desired byte of the patch is not there already; of a host
routine it is uninterpreted. -/
def editDiffers (e : Edit) (cur : List Byte) : Bool :=
  match e with
  | .patch _ => editApply e cur != cur
  | .routine k => Config.hostDiffers k cur

/-- The registers of 10_state.md R20, in the order of their numbers. -/
inductive Reg where
  | state | ckA | ckB | msgId | len | cnt | cap | idleRun | intCb | apiEn
  | awaitId | matchResult | rxLen | stopSeen | outcome | ioCode | dphase | txCkA | txCkB | inited
  deriving DecidableEq, Repr

/-- The register's number `i` (R20). -/
def Reg.number : Reg → Nat
  | .state => 0
  | .ckA => 1
  | .ckB => 2
  | .msgId => 3
  | .len => 4
  | .cnt => 5
  | .cap => 6
  | .idleRun => 7
  | .intCb => 8
  | .apiEn => 9
  | .awaitId => 10
  | .matchResult => 11
  | .rxLen => 12
  | .stopSeen => 13
  | .outcome => 14
  | .ioCode => 15
  | .dphase => 16
  | .txCkA => 17
  | .txCkB => 18
  | .inited => 19

/-- The register's width in bits (R20). -/
def Reg.width : Reg → Nat
  | .state => 4
  | .ckA | .ckB | .txCkA | .txCkB => 8
  | .msgId | .len | .cnt | .cap | .idleRun | .awaitId | .rxLen | .ioCode => 16
  | .intCb | .matchResult | .outcome | .dphase => 2
  | .apiEn | .stopSeen | .inited => 1

/-- The code of `match_result` (10_state.md R31). -/
def MatchResult.code : MatchResult → BitVec 2
  | .none => 0
  | .replied => 1
  | .acked => 2
  | .naked => 3

/-- The code of an outcome (10_state.md R34). -/
def CmdOutcome.code : CmdOutcome → BitVec 2
  | .ok => 0
  | .ackRejected => 1
  | .timeout => 2
  | .ioError => 3

/-- The code of `dphase` (10_state.md R36). -/
def DPhase.code : DPhase → BitVec 2
  | .idle => 0
  | .txrx => 1
  | .scan => 2

/-- The code of a feed result (30_encoding.md R81). -/
def FeedResult.code : FeedResult → BitVec 2
  | .parsing => 0
  | .stop => 1
  | .cont => 2

/-- The result that the API port's answer bit stands for (R81): a consumer cannot answer PARSING. -/
def apiResult (b : BitVec 1) : FeedResult := if b = 1 then .stop else .cont

/-- `x[i]` read through the register's number (00_scope.md R9): the value as an unsigned number. -/
def State.regValue (s : State) : Reg → Nat
  | .state => s.state.code.toNat
  | .ckA => s.ckA.toNat
  | .ckB => s.ckB.toNat
  | .msgId => s.msgId.toNat
  | .len => s.len.toNat
  | .cnt => s.cnt.toNat
  | .cap => s.cap.toNat
  | .idleRun => s.idleRun.toNat
  | .intCb => s.intCb.code.toNat
  | .apiEn => s.apiEn.toNat
  | .awaitId => s.awaitId.toNat
  | .matchResult => s.matchResult.code.toNat
  | .rxLen => s.rxLen.toNat
  | .stopSeen => s.stopSeen.toNat
  | .outcome => s.outcome.code.toNat
  | .ioCode => s.ioCode.toNat
  | .dphase => s.dphase.code.toNat
  | .txCkA => s.txCkA.toNat
  | .txCkB => s.txCkB.toNat
  | .inited => s.inited.toNat

/-- The registers a FEED's selection reads (30_encoding.md R76). -/
def State.decCtx (s : State) : DecCtx where
  len := s.len
  cnt := s.cnt
  cap := s.cap
  ckA := s.ckA
  ckB := s.ckB

/-- Whether R76 selects the decoder row `i` in this state. -/
def State.selects (s : State) (i : Instr) : Bool := rowSelected s.cfg s.decCtx s.state i

/-- What the host sees at the CMD port (10_state.md R45, 30_encoding.md R86): only while D_IDLE, the
outcome, `rx_len`, and `io_code` when the outcome is IO_ERROR. -/
def State.hostAnswer (s : State) : Option (CmdOutcome × Half × Option Half) :=
  if s.dphase = .idle then
    some (s.outcome, s.rxLen, if s.outcome = .ioError then some s.ioCode else none)
  else none

end Sys2Proof.Machine
end

