-- ==== Sys2Proof/Machine/Flags.lean ====
section
/-!
DEFINITION. The flags (00_scope.md R5: `stop_seen`, `match_result`) and the outcome a command ends with,
which is computed from them (43_dispatcher.md R171 to R174). UBXC has no arithmetic flags (40_checksum.md
R104).
-/

namespace Sys2Proof.Machine

/-- `if r = STOP then stop_seen <- 1` (43_dispatcher.md R163). -/
def State.latchStop (s : State) : State :=
  if s.feedRes = .stop then { s with stopSeen := true } else s

/-- What MATCH_ACKNAK writes to `match_result` for the acknowledging id (42_strategies.md R143). -/
def ackMatch (isAck : Bool) : MatchResult := if isAck then .acked else .naked

/-- The outcome of a command whose session did not fail (R171 to R174). -/
def commandOutcome (k : CmdKind) (r : SessRes) (m : MatchResult) : CmdOutcome :=
  match k with
  | .noWait => .ok
  | .reply => if m = .replied then .ok else .timeout
  | .ack => if m = .acked then .ok else if m = .naked then .ackRejected else .timeout
  | .readAll => if r = .stopped then .ok else .timeout

/-- The end-of-chunk test of SESSION_LOOP (R166): STOP first, then the idle bound. -/
def State.sessionEnd (s : State) : Option SessRes :=
  if s.stopSeen then some .stopped
  else if s.cfg.idleBound ≤ s.idleRun.toNat then some .timedOut
  else none

end Sys2Proof.Machine
end

