-- ==== Sys2Proof/Machine/Ops.lean ====
section
/-!
DEFINITION. The named operations over memory, registers and ports that the meanings share: PB access,
RESET_DEC, the framing error (UBXC's one exception entry), FINISH, the API event, the two transport
transactions, and the admission of commands and host accesses.
-/

namespace Sys2Proof.Machine

/-- The outcome of a meaning. -/
abbrev Res := Host.Outcome State Fault Refusal

/-- Continue a meaning from its next state. -/
def andThen (o : Res) (f : State → Res) : Res :=
  match o with
  | .next t => f t
  | .fault r => .fault r
  | .refused r => .refused r

/-- Apply a plain update to a meaning's next state. -/
def mapNext (o : Res) (f : State → State) : Res :=
  match o with
  | .next t => .next (f t)
  | .fault r => .fault r
  | .refused r => .refused r

/-- The next state, if there is one. -/
def nextState? (o : Res) : Option State :=
  match o with
  | .next t => some t
  | .fault _ => none
  | .refused _ => none

/-! ### The payload buffer -/

/-- The listed byte at an address. An unlisted address has no value: it is unspecified (assumption log 6). -/
def Memory.get? : Memory → Nat → Option Byte
  | [], _ => none
  | (k, v) :: m, a => if k = a then some v else Memory.get? m a

/-- Write one byte, keeping the addresses strictly rising. -/
def Memory.set : Memory → Nat → Byte → Memory
  | [], a, v => [(a, v)]
  | (k, w) :: m, a, v =>
    if a < k then (a, v) :: (k, w) :: m
    else if a = k then (a, v) :: m
    else (k, w) :: Memory.set m a v

/-- Write consecutive bytes from address `a` up. -/
def Memory.setFrom (m : Memory) (a : Nat) : List Byte → Memory
  | [] => m
  | v :: vs => Memory.setFrom (Memory.set m a v) (a + 1) vs

/-- The canonical form: addresses strictly rising. No entry can equal what an unlisted address reads as,
since that is no value. -/
def Memory.wf : Memory → Bool
  | [] => true
  | [_] => true
  | (a, _) :: (b, w) :: m => decide (a < b) && Memory.wf ((b, w) :: m)

/-- The byte at an address of PB: the value of the latest write, or the free power-on contents (20_memory.md
R63, assumption log 6). -/
def State.pbByte (s : State) (a : Nat) : Byte := (Memory.get? s.pb a).getD (Config.powerOnPB a)

/-- The bytes `PB[0..n-1]` in rising order. -/
def State.pbBytes (s : State) (n : Nat) : List Byte := (List.range n).map s.pbByte

/-- `MemRead` of `PB[0..n-1]` (20_memory.md R50): defined only inside PB. -/
def memReadUpTo (n : Nat) (s : State) : Except Fault (List Byte) :=
  if n ≤ s.cap.toNat then .ok (s.pbBytes n) else .error .pbOutOfRange

/-- `MemWrite(a, 1, v)` (00_scope.md R9, R50): defined only for `a < cap`. -/
def memWrite (a : Nat) (v : Byte) (s : State) : Res :=
  if a < s.cap.toNat then .next { s with pb := Memory.set s.pb a v } else .fault .pbOutOfRange

/-- The host writes one byte of PB at the PB port (10_state.md R45): only after INIT, while D_IDLE
(20_memory.md R60), inside PB. -/
def hostWrite (a : Nat) (v : Byte) (s : State) : Res :=
  if s.inited = false then .refused .notInitialised
  else if s.dphase ≠ .idle then .refused .hostWhileBusy
  else if a < s.cap.toNat then .next { s with pb := Memory.set s.pb a v }
  else .refused .hostOutsidePB

/-- The host reads one byte of PB: the PB port's answer is latched (assumption log 26). -/
def hostRead (a : Nat) (s : State) : Res :=
  if s.inited = false then .refused .notInitialised
  else if s.dphase ≠ .idle then .refused .hostWhileBusy
  else if a < s.cap.toNat then .next { s with pbPort := s.pbByte a }
  else .refused .hostOutsidePB

/-! ### Registers and results -/

/-- Note an event in the model's trace, newest first. -/
def State.record (s : State) (e : TraceEvent) : State := { s with trace := e :: s.trace }

/-- Return a feed or consumer result (30_encoding.md R81). -/
def State.setResult (s : State) (r : FeedResult) : State := { s with feedRes := r }

/-- The accumulators of a pair. -/
def State.ckPair (s : State) : CkPair → Byte × Byte
  | .rx => (s.ckA, s.ckB)
  | .tx => (s.txCkA, s.txCkB)

/-- Write the accumulators of a pair. -/
def State.setCkPair (s : State) (p : CkPair) (v : Byte × Byte) : State :=
  match p with
  | .rx => { s with ckA := v.1, ckB := v.2 }
  | .tx => { s with txCkA := v.1, txCkB := v.2 }

/-- `(ck_a, ck_b) <- CK_UPDATE((ck_a, ck_b), x)`, the line the decoder's rules share (R117 to R121). -/
def State.foldByte (s : State) (x : Byte) : State :=
  { s with ckA := (ckUpdate (s.ckA, s.ckB) x).1, ckB := (ckUpdate (s.ckA, s.ckB) x).2 }

/-- `RESET_DEC` (41_decoder.md R111): the per-frame registers and `idle_run`; not `cap`, `int_cb`,
`api_en`, PB or any dispatcher register. -/
def State.clearDec (s : State) : State :=
  { s with
    state := .sync1
    ckA := ckInit.1
    ckB := ckInit.2
    msgId := 0
    len := 0
    cnt := 0
    idleRun := 0 }

/-- Perform a decoder row only where R76 selects it (assumption log 17). -/
def onRow (i : Instr) (s : State) (o : Res) : Res :=
  if s.selects i then o else .refused .rowNotSelected

/-! ### Taking an exception, and completing a command -/

/-- Entry of a framing error (60_exceptions.md R201, R212), UBXC's one exception entry: the event is
traced, RESET_DEC is the whole architectural effect, the feed's result is PARSING; nothing is saved, no
handler runs. There is no return operation, because nothing was entered (R213). -/
def raiseFraming (e : TraceEvent) (s : State) : Res :=
  .next (((s.record e).clearDec).setResult .parsing)

/-- `FINISH(o)` (43_dispatcher.md R176): the strategy is removed, the outcome written, D_IDLE. -/
def finish (o : CmdOutcome) (s : State) : Res :=
  .next { s with intCb := .none, outcome := o, dphase := .idle }

/-- `FINISH_IO(e)` (R176): as FINISH with IO_ERROR, and `io_code` takes the transport's value. -/
def finishIo (e : Half) (s : State) : Res :=
  .next { s with intCb := .none, outcome := .ioError, ioCode := e, dphase := .idle }

/-! ### The API port -/

/-- The consumer's answer to the next event: the script's, or anything (assumption log 12). -/
def State.nextApi (s : State) : ApiAnswer := s.api.headD (Config.apiAnswer s.fresh)

/-- The event `(id, n)` has gone out and its answer is taken. -/
def State.delivered (s : State) (id n : Half) : State :=
  { s with api := s.api.tail, fresh := s.fresh + 1, trace := .delivered id n :: s.trace }

/-- `API.deliver(id, n)` (42_strategies.md R146): the answer bit, STOP or CONTINUE (30_encoding.md R81), is
the result. -/
def deliver (id n : Half) (s : State) : Res :=
  if s.apiEn then
    match s.nextApi.code with
    | some b => .next ((s.delivered id n).setResult (apiResult b))
    | none => .fault .consumerSilent
  else .refused .noConsumer

/-! ### The transport port -/

/-- The transport's answer to the next transaction: the script's, or anything (assumption log 10). -/
def State.nextTp (s : State) : TpAnswer := s.tp.headD (Config.tpAnswer s.fresh)

/-- `k` bytes past the listed part of the RX stream (60_exceptions.md R215 item 3). -/
def State.rxFill (s : State) (k : Nat) : List Byte :=
  match s.rxTail with
  | .quiet => List.replicate k s.cfg.idle
  | .free => (List.range k).map (Config.rxByte s.fresh)

/-- The next `m` bytes of the RX stream (R215 item 2). -/
def State.rxNext (s : State) (m : Nat) : List Byte := s.rx.take m ++ s.rxFill (m - s.rx.length)

/-- A transaction has been answered: its answer is used up and the free values move on. -/
def State.tpTaken (s : State) : State := { s with tp := s.tp.tail, fresh := s.fresh + 1 }

/-- `TP.transceive(frame)` and the feeding of its bytes begun (43_dispatcher.md R162, R215): on Ok the
frame joins the TX stream and as many bytes of the RX stream fill the chunk buffer; on Err no byte is fed
and nothing is retried. -/
def transceive (frame : List Byte) (s : State) : Res :=
  match s.nextTp with
  | .ok =>
    .next { s.tpTaken with
      tx := s.tx ++ frame
      rx := s.rx.drop frame.length
      chunk := s.chunk ++ s.rxNext frame.length
      trace := .transceive frame.length true :: s.trace
      ret := .done }
  | .err e sent =>
    .next { s.tpTaken with
      tx := s.tx ++ frame.take sent
      trace := .transceive frame.length false :: s.trace
      ret := .failed e }
  | .silent => .fault .transportSilent

/-- `TP.read(m)` and the feeding of its bytes begun (R164, R215). -/
def readBytes (m : Nat) (s : State) : Res :=
  match s.nextTp with
  | .ok =>
    .next { s.tpTaken with
      rx := s.rx.drop m
      chunk := s.chunk ++ s.rxNext m
      trace := .read m true :: s.trace
      ret := .done }
  | .err e _ =>
    .next { s.tpTaken with
      trace := .read m false :: s.trace
      ret := .failed e }
  | .silent => .fault .transportSilent

/-! ### Admission -/

/-- R175 (a) and (d): a command runs only after INIT and while D_IDLE. -/
def admitCommand (s : State) (o : Res) : Res :=
  if s.inited = false then .refused .notInitialised
  else if s.dphase ≠ .idle then .refused .busy
  else o

/-- R175 (a), (c) and (d): a command that sends also needs `n <= cap` (R161). -/
def admitSend (n : Half) (s : State) (o : Res) : Res :=
  admitCommand s (if n.toNat ≤ s.cap.toNat then o else .refused .sendTooLong)

/-- Put continuations on top of the dispatcher's list. -/
def State.push (s : State) (cs : List Cont) : State := { s with todo := cs ++ s.todo }

/-- The first lines of a sending command (R171 to R173): the exchange context is set up and D_TXRX
entered (R179). -/
def State.beginSend (s : State) (id : Half) : State :=
  { s with matchResult := .none, rxLen := 0, awaitId := id, dphase := .txrx }

end Sys2Proof.Machine
end

