-- ==== Sys2Proof/Machine/Checksum.lean ====
section
/-!
DEFINITION. Family 1: the checksum engine (40_checksum.md). CK owns no register; an operation names the
accumulator pair it works on (assumption log 24).
-/

namespace Sys2Proof.Machine

/-- `CK_INIT` (R100): the pair becomes (0, 0). -/
def execCkInit (p : CkPair) (s : State) : Res := .next (s.setCkPair p ckInit)

/-- `CK_UPDATE` (R101): one byte into the pair. -/
def execCkUpdate (p : CkPair) (x : Byte) (s : State) : Res :=
  .next (s.setCkPair p (ckUpdate (s.ckPair p) x))

/-- `CK_FOLD` (R102): repeated CK_UPDATE, in order. -/
def execCkFold (p : CkPair) (xs : List Byte) (s : State) : Res :=
  .next (s.setCkPair p (ckFold (s.ckPair p) xs))

end Sys2Proof.Machine
end

