-- ==== Sys2Proof/Machine/Strategies.lean ====
section
/-!
DEFINITION. Family 3: the frame-accept step and the strategies (42_strategies.md).
-/

namespace Sys2Proof.Machine

/-- Strategy `NONE` (R141): CONTINUE, nothing read or written. -/
def execStratNone (s : State) : Res := .next (s.setResult .cont)

/-- Strategy `MATCH_REPLY` (R142): the id alone decides. -/
def execStratMatchReply (id n : Half) (s : State) : Res :=
  if id = s.awaitId then
    .next (State.setResult { s with matchResult := .replied, rxLen := n } .stop)
  else .next (s.setResult .cont)

/-- The part of MATCH_ACKNAK (R143) that the two recognised ids share: a frame long enough for the ACK/NAK
layout, whose class and id bytes name the awaited id, writes `match_result` and is claimed. In the spec's
layout these are `PB[0]` and `PB[1]` of a frame of at least two bytes (assumption log 35). -/
def matchAcknowledged (isAck : Bool) (n : Half) (s : State) : Res :=
  if s.cfg.ackLen ≤ n.toNat then
    match memReadUpTo s.cfg.ackLen s with
    | .ok bytes =>
      if joinBytes (bytes.getD s.cfg.ackClassAt 0) (bytes.getD s.cfg.ackIdAt 0) = s.awaitId then
        .next (State.setResult { s with matchResult := ackMatch isAck } .stop)
      else .next (s.setResult .cont)
    | .error e => .fault e
  else .next (s.setResult .cont)

/-- An ACK-ACK frame of length `n` under MATCH_ACKNAK (30_encoding.md R82, R84, R143). -/
def execMsgidAckAck (n : Half) (s : State) : Res := matchAcknowledged true n s

/-- An ACK-NAK frame of length `n` under MATCH_ACKNAK (R82, R84, R143). -/
def execMsgidAckNak (n : Half) (s : State) : Res := matchAcknowledged false n s

/-- Strategy `MATCH_ACKNAK` (R143): the id is decoded (R82); any other id is CONTINUE. -/
def execStratMatchAcknak (id n : Half) (s : State) : Res :=
  if id = s.cfg.ackAckId then execMsgidAckAck n s
  else if id = s.cfg.ackNakId then execMsgidAckNak n s
  else .next (s.setResult .cont)

/-- `API_DELIVER` (R146): the frame-accept event at the API port. -/
def execApiDeliver (id n : Half) (s : State) : Res := deliver id n s

/-- The strategy selected by `int_cb` (R140). -/
def runStrategy (id n : Half) (s : State) : Res :=
  match s.intCb with
  | .none => execStratNone s
  | .matchReply => execStratMatchReply id n s
  | .matchAcknak => execStratMatchAcknak id n s

/-- `ACCEPT` (R140): the internal strategy first; if it answers CONTINUE and a consumer is attached, the
API consumer. -/
def execAccept (id n : Half) (s : State) : Res :=
  andThen (runStrategy id n (s.record (.accepted id n))) fun t =>
    if t.feedRes = .cont ∧ t.apiEn = true then execApiDeliver id n t else .next t

end Sys2Proof.Machine
end

