-- ==== Sys2Proof/Machine/Decoder.lean ====
section
/-!
DEFINITION. Family 2: the frame decoder (41_decoder.md). One meaning per row of 30_encoding.md R76, each
performed only where R76 selects it, and FEED, which selects.
-/

namespace Sys2Proof.Machine

/-- `RESET_DEC` (R111). -/
def execResetDec (s : State) : Res := .next s.clearDec

/-- `S1_SYNC` (R112). -/
def execS1Sync (s : State) : Res :=
  onRow .s1Sync s (.next (State.setResult { s with idleRun := 0, state := .sync2 } .parsing))

/-- `S1_IDLE` (R113). -/
def execS1Idle (s : State) : Res :=
  onRow .s1Idle s (.next (State.setResult { s with idleRun := satInc16 s.idleRun } .parsing))

/-- `S1_OTHER` (R114). -/
def execS1Other (x : Byte) (s : State) : Res :=
  onRow (.s1Other x) s (.next (State.setResult { s with idleRun := 0 } .parsing))

/-- `S2_MATCH` (R115). -/
def execS2Match (s : State) : Res :=
  onRow .s2Match s (.next (State.setResult { s with state := .cls } .parsing))

/-- `S2_MISS` (R116): FE_SYNC2; the byte is not taken as a new first sync byte. -/
def execS2Miss (x : Byte) (s : State) : Res := onRow (.s2Miss x) s (raiseFraming .feSync2 s)

/-- `CLASS` (R117). -/
def execDecClass (x : Byte) (s : State) : Res :=
  onRow (.decClass x) s
    (.next (State.setResult { s.foldByte x with msgId := zext16 x, state := .id } .parsing))

/-- `ID` (R118): `msg_id <- { msg_id[7:0], x }`. -/
def execDecId (x : Byte) (s : State) : Res :=
  onRow (.decId x) s
    (.next (State.setResult
      { s.foldByte x with msgId := joinBytes (lowByte s.msgId) x, state := .length1 } .parsing))

/-- `LEN1` (R119). -/
def execLen1 (x : Byte) (s : State) : Res :=
  onRow (.len1 x) s
    (.next (State.setResult { s.foldByte x with len := zext16 x, state := .length2 } .parsing))

/-- The pseudocode of `LEN2` (R120): `x` is the high byte; a zero length skips PAYLOAD. -/
def finishLength (x : Byte) (s : State) : State :=
  let n := joinBytes x (lowByte s.len)
  State.setResult
    { s.foldByte x with len := n, state := if n = 0 then .chksum1 else .payload } .parsing

/-- `LEN2_ZERO` (R120): the assembled length is 0, so the byte is 0. -/
def execLen2Zero (s : State) : Res := onRow .len2Zero s (.next (finishLength 0 s))

/-- `LEN2_NZ` (R120). -/
def execLen2Nz (x : Byte) (s : State) : Res := onRow (.len2Nz x) s (.next (finishLength x s))

/-- The pseudocode of `PAY_STORE` (R121): fold, store at `cnt`, count, and leave PAYLOAD on the last byte. -/
def storePayload (x : Byte) (s : State) : Res :=
  mapNext (memWrite s.cnt.toNat x (s.foldByte x)) fun t =>
    State.setResult
      { t with cnt := s.cnt + 1, state := if s.cnt + 1 = s.len then .chksum1 else .payload } .parsing

/-- `PAY_STORE` (R121). -/
def execPayStore (x : Byte) (s : State) : Res := onRow (.payStore x) s (storePayload x s)

/-- `PAY_LAST` (R121). -/
def execPayLast (x : Byte) (s : State) : Res := onRow (.payLast x) s (storePayload x s)

/-- `PAY_OVERRUN` (R122): FE_OVERRUN; PB is not written. -/
def execPayOverrun (x : Byte) (s : State) : Res :=
  onRow (.payOverrun x) s (raiseFraming .feOverrun s)

/-- `CK1_MATCH` (R123). -/
def execCk1Match (x : Byte) (s : State) : Res :=
  onRow (.ck1Match x) s (.next (State.setResult { s with state := .chksum2 } .parsing))

/-- `CK1_MISS` (R124): FE_CK_A. -/
def execCk1Miss (x : Byte) (s : State) : Res := onRow (.ck1Miss x) s (raiseFraming .feCkA s)

/-- Capture, reset, then accept (R125). -/
def acceptFrame (s : State) : Res := execAccept s.msgId s.len s.clearDec

/-- `CK2_MATCH` (R125). -/
def execCk2Match (x : Byte) (s : State) : Res := onRow (.ck2Match x) s (acceptFrame s)

/-- `CK2_MISS` (R126): FE_CK_B under CK2_STRICT; otherwise the mark CK_B_IGNORED and the frame is
accepted. -/
def execCk2Miss (x : Byte) (s : State) : Res :=
  onRow (.ck2Miss x) s
    (if s.cfg.ck2Strict then raiseFraming .feCkB s else acceptFrame (s.record .ckBIgnored))

/-- `FEED` (R110): the case on `state`, in R110's order. -/
def execFeed (x : Byte) (s : State) : Res :=
  match s.state with
  | .sync1 =>
    if x = s.cfg.sync1 then execS1Sync s
    else if x = s.cfg.idle then execS1Idle s
    else execS1Other x s
  | .sync2 => if x = s.cfg.sync2 then execS2Match s else execS2Miss x s
  | .cls => execDecClass x s
  | .id => execDecId x s
  | .length1 => execLen1 x s
  | .length2 => if joinBytes x (lowByte s.len) = 0 then execLen2Zero s else execLen2Nz x s
  | .payload =>
    if s.cap.toNat ≤ s.cnt.toNat then execPayOverrun x s
    else if s.cnt + 1 = s.len then execPayLast x s
    else execPayStore x s
  | .chksum1 => if x = s.ckA then execCk1Match x s else execCk1Miss x s
  | .chksum2 => if x = s.ckB then execCk2Match x s else execCk2Miss x s

/-- `FEED_BULK` (R128): `FEED(x0); ...; FEED(xk)` and nothing else. -/
def execFeedBulk (xs : List Byte) (s : State) : Res :=
  match xs with
  | [] => .next s
  | x :: rest => andThen (execFeed x s) (execFeedBulk rest)

end Sys2Proof.Machine
end

