-- ==== Sys2Proof/Machine/Dispatcher.lean ====
section
/-!
DEFINITION. Family 4: the dispatcher, the frame encoder and the idle-stream scanner (43_dispatcher.md):
micro-operations, composite sequences and commands. An operation that loops or waits puts what comes next
on `todo`; the machine takes it up step by step (assumption log 8), so a session that never ends is an
endless run (R178).
-/

namespace Sys2Proof.Machine

/-- `ENCODE` (R160): the frame of `PB[0..n-1]` under `id`; `tx_ck_a`, `tx_ck_b` hold its checksum. -/
def execEncodeFrame (id n : Half) (s : State) : Res :=
  match memReadUpTo n.toNat s with
  | .ok payload =>
    .next { s.setCkPair .tx (frameChecksum id n payload) with
      txFrame := frameBytes s.cfg id n payload }
  | .error e => .fault e

/-- `TXRX` (R162): D_TXRX, the whole frame encoded, one transceive; its bytes fill the chunk buffer, which
the machine feeds next (FEED_CHUNK). -/
def execTxrx (id n : Half) (s : State) : Res :=
  andThen (execEncodeFrame id n { s with dphase := .txrx }) fun t => transceive t.txFrame t

/-- `FEED_CHUNK` (R163): every byte is fed, in order, and a STOP is latched. -/
def execFeedChunk (c : List Byte) (s : State) : Res :=
  match c with
  | [] => .next s
  | x :: rest => andThen (mapNext (execFeed x s) State.latchStop) (execFeedChunk rest)

/-- `READ_CHUNK` (R164): D_SCAN, one read of CHUNK_LEN bytes into the chunk buffer. -/
def execReadChunk (s : State) : Res := readBytes s.cfg.chunkLen { s with dphase := .scan }

/-- `SESSION_BEGIN` (R165). -/
def execSessionBegin (st : Strategy) (s : State) : Res :=
  .next { s with intCb := st, stopSeen := false, idleRun := 0 }

/-- `SESSION_LOOP` (R166): the end-of-chunk test; if the session goes on, one READ_CHUNK and the test
again. -/
def execSessionLoop (s : State) : Res :=
  match s.sessionEnd with
  | some r => .next { s with ret := r }
  | none => .next (s.push [.run .readChunk, .loopUnlessFailed])

/-- `EXCHANGE` (R168): SESSION_BEGIN, TXRX, then SESSION_LOOP unless TXRX failed. -/
def execExchange (id n : Half) (st : Strategy) (s : State) : Res :=
  .next (s.push [.run (.sessionBegin st), .run (.txrx id n), .loopUnlessFailed])

/-- `SCAN` (R169): SESSION_BEGIN, SESSION_LOOP. -/
def execScan (st : Strategy) (s : State) : Res :=
  .next (s.push [.run (.sessionBegin st), .run .sessionLoop])

/-- `INIT` (R170). Refused only while a command is in progress (R175 (d)). -/
def execInit (api : Bool) (capIn : Half) (s : State) : Res :=
  if s.dphase ≠ .idle then .refused .busy
  else
    .next { s.clearDec with
      cap := capIn
      apiEn := api
      intCb := .none
      awaitId := 0
      matchResult := .none
      rxLen := 0
      stopSeen := false
      txCkA := 0
      txCkB := 0
      outcome := .ok
      dphase := .idle
      inited := true }

/-- `SEND_NO_WAIT` (R171), accepted. -/
def execSendNoWait (id n : Half) (s : State) : Res :=
  admitSend n s
    (.next ((s.beginSend id).push [.run (.exchange id n .none), .finish .noWait]))

/-- The acceptance of a `SEND_WAIT_REPLY` (R172), which POLL and POLL1 expand into (30_encoding.md R89). -/
def sendAndWaitReply (id n : Half) (s : State) : Res :=
  admitSend n s
    (.next ((s.beginSend id).push [.run (.exchange id n .matchReply), .finish .reply]))

/-- `SEND_WAIT_REPLY` (R172), accepted. -/
def execSendWaitReply (id n : Half) (s : State) : Res := sendAndWaitReply id n s

/-- `SEND_WAIT_ACK` (R173), accepted: session A is SESSION_BEGIN(NONE) and TXRX, session B the scan with
MATCH_ACKNAK. -/
def execSendWaitAck (id n : Half) (s : State) : Res :=
  admitSend n s
    (.next ((s.beginSend id).push
      [.run (.sessionBegin .none), .run (.txrx id n), .scanUnlessFailed, .finish .ack]))

/-- `READ_ALL` (R174), accepted; `await_id` unchanged, D_SCAN (R179). -/
def execReadAll (s : State) : Res :=
  admitCommand s
    (.next (State.push { s with matchResult := .none, rxLen := 0, dphase := .scan }
      [.run (.scan .none), .finish .readAll]))

/-- Command opcode 5 (R175 (b)): refused. -/
def execCmdReserved5 (_s : State) : Res := .refused .reservedCommand

/-- Command opcode 6 (R175 (b)): refused. -/
def execCmdReserved6 (_s : State) : Res := .refused .reservedCommand

/-- Command opcode 7 (R175 (b)): refused. -/
def execCmdReserved7 (_s : State) : Res := .refused .reservedCommand

end Sys2Proof.Machine
end

