-- ==== Sys2Proof/Machine/Idiom.lean ====
section
/-!
DEFINITION. The host's pseudo-instructions (30_encoding.md R89, 44_command_idiom.md R190): POLL, POLL1 and
POLL_MODIFY_SEND, expanded into commands and accesses to PB.
-/

namespace Sys2Proof.Machine

/-- `POLL(id)` (R89): `SEND_WAIT_REPLY(id, 0)`. -/
def execPoll (id : Half) (s : State) : Res := sendAndWaitReply id 0 s

/-- `POLL1(id, b)` (R89): the host writes `PB[0] <- b`, then `SEND_WAIT_REPLY(id, 1)`. -/
def execPoll1 (id : Half) (b : Byte) (s : State) : Res :=
  andThen (hostWrite 0 b s) (sendAndWaitReply id 1)

/-- `POLL_MODIFY_SEND` (R190) up to its first command, with the compare to follow it. The poll byte, if
any, says the poll has one byte. -/
def execPollModifySend (id : Half) (poll : Option Byte) (e : Edit) (s : State) : Res :=
  match poll with
  | none => sendAndWaitReply id 0 (s.push [.compare id e])
  | some b => andThen (hostWrite 0 b s) fun t => sendAndWaitReply id 1 (t.push [.compare id e])

/-- The rest of R190, once the poll has completed: unless it ended OK, stop; read the record; if nothing
differs, send nothing; otherwise write the changed record in place and issue SEND_WAIT_ACK. -/
def compareAndSend (id : Half) (e : Edit) (s : State) : Res :=
  if s.dphase ≠ .idle then .refused .hostWhileBusy
  else if s.outcome ≠ .ok then .next s
  else
    match memReadUpTo s.rxLen.toNat s with
    | .error f => .fault f
    | .ok cur =>
      if editDiffers e cur then
        .next (State.push { s with pb := Memory.setFrom s.pb 0 (editApply e cur) }
          [.run (.sendWaitAck id s.rxLen)])
      else .next s

end Sys2Proof.Machine
end

