-- ==== Sys2Proof/Machine/Control.lean ====
section
/-!
DEFINITION. What a step takes up next, and what it does that is no instruction: the continuations of the
dispatcher's pseudocode, the host's accesses to PB, and the fetch (assumption log 8).
-/

namespace Sys2Proof.Machine

/-- The end of a command (43_dispatcher.md R171 to R174, R176): FINISH_IO if a transaction failed,
otherwise FINISH with the command's outcome. -/
def finishCommand (k : CmdKind) (s : State) : Res :=
  match s.ret with
  | .failed e => finishIo e s
  | .done => finish (commandOutcome k .done s.matchResult) s
  | .stopped => finish (commandOutcome k .stopped s.matchResult) s
  | .timedOut => finish (commandOutcome k .timedOut s.matchResult) s

/-- "if r = FAILED(e) then return FAILED(e)", then SESSION_LOOP (R166, R168). -/
def loopUnlessFailed (s : State) : Res :=
  match s.ret with
  | .failed _ => .next s
  | .done | .stopped | .timedOut => execSessionLoop s

/-- "if r = FAILED(e) then FINISH_IO(e); return", then SCAN(MATCH_ACKNAK) (R173): on a failure the
FINISH that follows is FINISH_IO. -/
def scanUnlessFailed (s : State) : Res :=
  match s.ret with
  | .failed _ => .next s
  | .done | .stopped | .timedOut => execScan .matchAcknak s

/-- What a step has found to do: nothing; a decoder row for a byte of the chunk buffer; an instruction; a
continuation; a host access to PB; or a decode word that is no row. The state is the one left once the
item is taken. -/
inductive Fetched where
  | nothing
  | row (i : Instr) (t : State)
  | op (i : Instr) (t : State)
  | loop (t : State)
  | scanNext (t : State)
  | finish (k : CmdKind) (t : State)
  | compare (id : Half) (e : Edit) (t : State)
  | hostWrite (a : Half) (v : Byte) (t : State)
  | hostRead (a : Half) (t : State)
  | noRow
  deriving DecidableEq, Repr

/-- Take up the next thing. First every byte of the chunk buffer, in order (R163): the decode word {state,
byte} is decoded (30_encoding.md R76). Then the dispatcher's list. Then, when UBXC is idle, the host's next
action: a command word is decoded (R86). -/
def fetch (s : State) : Fetched :=
  match s.chunk with
  | x :: rest =>
    match decodeDec s.cfg s.decCtx (decodeWord s.state x) with
    | .ok i => .row i { s with chunk := rest }
    | .error _ => .noRow
  | [] =>
    match s.todo with
    | .run i :: rest => .op i { s with todo := rest }
    | .loopUnlessFailed :: rest => .loop { s with todo := rest }
    | .scanUnlessFailed :: rest => .scanNext { s with todo := rest }
    | .finish k :: rest => .finish k { s with todo := rest }
    | .compare id e :: rest => .compare id e { s with todo := rest }
    | [] =>
      match s.host with
      | .cmd w :: rest => .op (decodeCmd w) { s with host := rest }
      | .pbWrite a v :: rest => .hostWrite a v { s with host := rest }
      | .pbRead a :: rest => .hostRead a { s with host := rest }
      | .poll id :: rest => .op (.poll id) { s with host := rest }
      | .poll1 id b :: rest => .op (.poll1 id b) { s with host := rest }
      | .pollModifySend id p e :: rest => .op (.pollModifySend id p e) { s with host := rest }
      | [] => .nothing

/-- The state in which the next FEED reads the decode word `{st, x}` of the bare opcode table: the byte is
in the chunk buffer, `state` holds `st`, and the registers the selection reads are as DecCtx.zero selects
with (assumption log 20). -/
def State.withDecodeWord (s : State) (st : DecState) (x : Byte) : State :=
  { s with
    state := st
    chunk := [x]
    len := if st = .length2 then 0 else s.len
    cnt := if st = .payload then s.cap else s.cnt
    ckA := if st = .chksum1 then 0 else s.ckA
    ckB := if st = .chksum2 then 0 else s.ckB }

/-- Place a word of the opcode table where the next step takes it up. -/
def State.withCode (s : State) (c : Code) : State :=
  match c with
  | .dec w =>
    match DecState.ofCode? (w.extractLsb' 8 4) with
    | some st => s.withDecodeWord st (w.extractLsb' 0 8)
    | none => s
  | .cmd w => { s with chunk := [], todo := [], host := .cmd w :: s.host }
  | .strategy w id n =>
    match decodeStrategy w id n with
    | .ok i => { s with chunk := [], todo := .run i :: s.todo }
    | .error _ => s
  | .msgid w n =>
    match decodeMsgId s.cfg w n with
    | .ok i => { s with chunk := [], todo := .run i :: s.todo }
    | .error _ => s

end Sys2Proof.Machine
end

