-- ==== Sys2Proof/Machine/Dispatch.lean ====
section
/-! DEFINITION. The one dispatch: each constructor of Instr to its meaning. -/

namespace Sys2Proof.Machine

def exec (i : Instr) (s : State) : Host.Outcome State Fault Refusal :=
  match i with
  | .s1Sync => Sys2Proof.Machine.execS1Sync s
  | .s1Idle => Sys2Proof.Machine.execS1Idle s
  | .s1Other x => Sys2Proof.Machine.execS1Other x s
  | .s2Match => Sys2Proof.Machine.execS2Match s
  | .s2Miss x => Sys2Proof.Machine.execS2Miss x s
  | .decClass x => Sys2Proof.Machine.execDecClass x s
  | .decId x => Sys2Proof.Machine.execDecId x s
  | .len1 x => Sys2Proof.Machine.execLen1 x s
  | .len2Zero => Sys2Proof.Machine.execLen2Zero s
  | .len2Nz x => Sys2Proof.Machine.execLen2Nz x s
  | .payOverrun x => Sys2Proof.Machine.execPayOverrun x s
  | .payStore x => Sys2Proof.Machine.execPayStore x s
  | .payLast x => Sys2Proof.Machine.execPayLast x s
  | .ck1Match x => Sys2Proof.Machine.execCk1Match x s
  | .ck1Miss x => Sys2Proof.Machine.execCk1Miss x s
  | .ck2Match x => Sys2Proof.Machine.execCk2Match x s
  | .ck2Miss x => Sys2Proof.Machine.execCk2Miss x s
  | .init api cap => Sys2Proof.Machine.execInit api cap s
  | .sendNoWait id n => Sys2Proof.Machine.execSendNoWait id n s
  | .sendWaitReply id n => Sys2Proof.Machine.execSendWaitReply id n s
  | .sendWaitAck id n => Sys2Proof.Machine.execSendWaitAck id n s
  | .readAll => Sys2Proof.Machine.execReadAll s
  | .cmdReserved5 => Sys2Proof.Machine.execCmdReserved5 s
  | .cmdReserved6 => Sys2Proof.Machine.execCmdReserved6 s
  | .cmdReserved7 => Sys2Proof.Machine.execCmdReserved7 s
  | .stratNone => Sys2Proof.Machine.execStratNone s
  | .stratMatchReply id n => Sys2Proof.Machine.execStratMatchReply id n s
  | .stratMatchAcknak id n => Sys2Proof.Machine.execStratMatchAcknak id n s
  | .msgidAckAck n => Sys2Proof.Machine.execMsgidAckAck n s
  | .msgidAckNak n => Sys2Proof.Machine.execMsgidAckNak n s
  | .feed x => Sys2Proof.Machine.execFeed x s
  | .resetDec => Sys2Proof.Machine.execResetDec s
  | .ckInit p => Sys2Proof.Machine.execCkInit p s
  | .ckUpdate p x => Sys2Proof.Machine.execCkUpdate p x s
  | .accept id n => Sys2Proof.Machine.execAccept id n s
  | .apiDeliver id n => Sys2Proof.Machine.execApiDeliver id n s
  | .encodeFrame id n => Sys2Proof.Machine.execEncodeFrame id n s
  | .txrx id n => Sys2Proof.Machine.execTxrx id n s
  | .feedChunk c => Sys2Proof.Machine.execFeedChunk c s
  | .readChunk => Sys2Proof.Machine.execReadChunk s
  | .sessionBegin st => Sys2Proof.Machine.execSessionBegin st s
  | .sessionLoop => Sys2Proof.Machine.execSessionLoop s
  | .exchange id n st => Sys2Proof.Machine.execExchange id n st s
  | .scan st => Sys2Proof.Machine.execScan st s
  | .ckFold p xs => Sys2Proof.Machine.execCkFold p xs s
  | .feedBulk xs => Sys2Proof.Machine.execFeedBulk xs s
  | .pollModifySend id poll e => Sys2Proof.Machine.execPollModifySend id poll e s
  | .poll id => Sys2Proof.Machine.execPoll id s
  | .poll1 id b => Sys2Proof.Machine.execPoll1 id b s

end Sys2Proof.Machine
end

