-- ==== Sys2Proof/Machine/Step.lean ====
section
/-!
DEFINITION. One step of the machine (00_scope.md R2): take up the next thing and do it. Around a byte of a
chunk the step latches a STOP (43_dispatcher.md R163). With nothing to do UBXC stays as it is (R233).
-/

namespace Sys2Proof.Machine

/-- One step. -/
def step (s : State) : Host.Outcome State Fault Refusal :=
  match fetch s with
  | .nothing => .next s
  | .row i t => mapNext (exec i t) State.latchStop
  | .op i t => exec i t
  | .loop t => loopUnlessFailed t
  | .scanNext t => scanUnlessFailed t
  | .finish k t => finishCommand k t
  | .compare id e t => compareAndSend id e t
  | .hostWrite a v t => hostWrite a.toNat v t
  | .hostRead a t => hostRead a.toNat t
  | .noRow => .refused .reservedDecodeWord

/-- The state with the word of the opcode table placed where the next step takes it up (assumption log
20): a decode word in `state` and the chunk buffer, a command word at the host's CMD port with UBXC's own
work set aside, a strategy or a message id as the operation at hand. A word that is no instruction leaves
the state alone. -/
def State.withFetchWord (s : State) (nbits w : Nat) : State :=
  match tableCode s.cfg nbits w with
  | some c => s.withCode c
  | none => s

end Sys2Proof.Machine
end

