-- ==== Sys2Proof/Safety.lean ====
section
/-!
DEFINITION. The terms claims are stated in: the invariant of 10_state.md R43 with what the model's control
adds to it, and what it means for an operation to leave registers, PB, the ports and the control alone.
-/

namespace Sys2Proof.Machine

/-- What stands on the dispatcher's list between commands: the host idiom's own lines. -/
def idleItem : Cont → Bool
  | .run (.sendWaitAck _ _) => true
  | .compare _ _ => true
  | .run _ => false
  | .loopUnlessFailed => false
  | .scanUnlessFailed => false
  | .finish _ => false

/-- What a command still has to do once its frame is sent, or if it sends none. -/
def scanItem : Cont → Bool
  | .run (.sessionBegin _) => true
  | .run .sessionLoop => true
  | .run .readChunk => true
  | .run (.scan _) => true
  | .loopUnlessFailed => true
  | .scanUnlessFailed => true
  | .run _ => false
  | .finish _ => false
  | .compare _ _ => false

/-- Between commands the list holds the host idiom's lines only. -/
def idleTodo (cs : List Cont) : Bool := cs.all idleItem

/-- From its scan phase on, a command's list leads to its FINISH and sends nothing more. -/
def scanTodo : List Cont → Bool
  | [] => false
  | .finish _ :: cs => idleTodo cs
  | c :: cs => scanItem c && scanTodo cs

/-- A command in its send phase has at most one frame to send, and it fits PB; then it scans. -/
def sendTodo (cap : Half) : List Cont → Bool
  | [] => false
  | .run (.sessionBegin _) :: cs => sendTodo cap cs
  | .run (.exchange _ n _) :: cs => decide (n.toNat ≤ cap.toNat) && scanTodo cs
  | .run (.txrx _ n) :: cs => decide (n.toNat ≤ cap.toNat) && scanTodo cs
  | c :: cs => scanTodo (c :: cs)

/-- The dispatcher's list fits its phase (43_dispatcher.md R179). -/
def controlOk (cap : Half) : DPhase → List Cont → Bool
  | .idle, cs => idleTodo cs
  | .txrx, cs => sendTodo cap cs
  | .scan, cs => scanTodo cs

/-- A command is in progress: `dphase` is not D_IDLE (R36). -/
def State.isBusy (s : State) : Bool := s.dphase != .idle

/-- The invariant of R43 (items 2 to 6; item 1 holds by the type), the checksum of the header bytes so far
(part of item 7), PB canonical, and the model's control. -/
structure State.Inv (s : State) : Prop where
  /-- The constraints of R7. -/
  cfgValid : s.cfg.valid = true
  /-- R43 item 2. -/
  idleOnlyHunting : s.state ≠ .sync1 → s.idleRun = 0
  /-- R43 item 3. -/
  huntingClean : s.state = .sync1 ∨ s.state = .sync2 →
    s.ckA = 0 ∧ s.ckB = 0 ∧ s.msgId = 0 ∧ s.len = 0 ∧ s.cnt = 0
  /-- R22: on entry to state CLASS the accumulators are (0, 0). -/
  classFresh : s.state = .cls → s.ckA = 0 ∧ s.ckB = 0
  /-- R43 item 4. -/
  headerUncounted : s.state = .cls ∨ s.state = .id ∨ s.state = .length1 ∨ s.state = .length2 → s.cnt = 0
  /-- R43 item 5. -/
  payloadOpen : s.state = .payload →
    1 ≤ s.len.toNat ∧ s.cnt.toNat < s.len.toNat ∧ s.cnt.toNat ≤ s.cap.toNat
  /-- R43 item 6. -/
  payloadComplete : s.state = .chksum1 ∨ s.state = .chksum2 →
    s.cnt = s.len ∧ s.len.toNat ≤ s.cap.toNat
  /-- R43 item 7, in the header states: the accumulators are the fold of the header bytes so far. -/
  headerFolded :
    (s.state = .id → s.msgId = zext16 (lowByte s.msgId) ∧
      (s.ckA, s.ckB) = ckFold ckInit [lowByte s.msgId]) ∧
    (s.state = .length1 → (s.ckA, s.ckB) = ckFold ckInit [highByte s.msgId, lowByte s.msgId]) ∧
    (s.state = .length2 → s.len = zext16 (lowByte s.len) ∧
      (s.ckA, s.ckB) = ckFold ckInit [highByte s.msgId, lowByte s.msgId, lowByte s.len])
  /-- PB is in its canonical form. -/
  memoryWf : Memory.wf s.pb = true
  /-- A recorded reply length fits PB. -/
  rxLenFits : s.rxLen.toNat ≤ s.cap.toNat
  /-- R175 (a): nothing runs before INIT. -/
  busyInited : s.isBusy = true → s.inited = true
  /-- The dispatcher's list fits its phase. -/
  control : controlOk s.cap s.dphase s.todo = true
  /-- Bytes wait to be fed only while a command is in progress (R41). -/
  chunkBusy : s.chunk ≠ [] → s.isBusy = true

/-- The next thing on the list is a command's completion. -/
def endsNext : List Cont → Bool
  | .finish _ :: _ => true
  | _ => false

/-- The items that leave a session's result: its loop, or a failed transaction. -/
def resultItem : Cont → Bool
  | .run .sessionLoop => true
  | .run (.scan _) => true
  | .run (.exchange _ _ _) => true
  | .loopUnlessFailed => true
  | .scanUnlessFailed => true
  | .run _ => false
  | .finish _ => false
  | .compare _ _ => false

/-- A command's completion stands only after an item that leaves its session's result. -/
def completionsAfterResults : List Cont → Bool
  | [] => true
  | c :: cs => (resultItem c || !endsNext cs) && completionsAfterResults cs

/-- What holds of a command's completion between any two steps (43_dispatcher.md R166, R178): it is next only
once every byte of the last chunk is fed and the session has ended by a failed transaction or by the
end-of-chunk test, whose result stands. -/
structure State.SessionInv (s : State) : Prop where
  shape : completionsAfterResults s.todo = true
  result : endsNext s.todo = true →
    s.chunk = [] ∧ ((∃ e, s.ret = .failed e) ∨ s.sessionEnd = some s.ret)

/-- Every register of R20 outside `ws` reads as before. -/
def sameRegsExcept (ws : List Reg) (s t : State) : Prop :=
  ∀ r : Reg, r ∉ ws → t.regValue r = s.regValue r

/-- Every byte of PB reads as before. -/
def samePB (s t : State) : Prop := ∀ a : Nat, t.pbByte a = s.pbByte a

/-- Every byte of PB outside addresses `lo` to `lo + k - 1` reads as before. -/
def samePBOutside (lo k : Nat) (s t : State) : Prop :=
  ∀ a : Nat, a < lo ∨ lo + k ≤ a → t.pbByte a = s.pbByte a

/-- The transport port's streams and answers are as before. -/
def sameTransport (s t : State) : Prop :=
  t.tx = s.tx ∧ t.rx = s.rx ∧ t.rxTail = s.rxTail ∧ t.tp = s.tp

/-- The configuration, the chunk buffer, the dispatcher's list, its results and the host's port are as
before. -/
def sameControl (s t : State) : Prop :=
  t.cfg = s.cfg ∧ t.chunk = s.chunk ∧ t.todo = s.todo ∧ t.ret = s.ret ∧ t.txFrame = s.txFrame ∧
    t.host = s.host ∧ t.pbPort = s.pbPort

/-- The API port saw nothing: the consumer was not asked. -/
def sameApi (s t : State) : Prop := t.api = s.api ∧ t.fresh = s.fresh

/-- The opcode-table row of a strategy, for the accepted frame `(id, n)` (42_strategies.md R140). -/
def strategyRow (st : Strategy) (id n : Half) : Instr :=
  match st with
  | .none => .stratNone
  | .matchReply => .stratMatchReply id n
  | .matchAcknak => .stratMatchAcknak id n

/-- The decoder hunts with every per-frame register clear (R43 item 3), as after RESET_DEC. -/
def State.decClean (s : State) : Prop :=
  s.state = .sync1 ∧ s.ckA = 0 ∧ s.ckB = 0 ∧ s.msgId = 0 ∧ s.len = 0 ∧ s.cnt = 0

/-- PB reads of the strategy stay inside PB (42_strategies.md R143: implied by the frame's reception). -/
def State.strategyInPB (s : State) (id n : Half) : Prop :=
  s.intCb = .matchAcknak → (id = s.cfg.ackAckId ∨ id = s.cfg.ackNakId) →
    s.cfg.ackLen ≤ n.toNat → s.cfg.ackLen ≤ s.cap.toNat

/-- The consumer, if one is attached, answers the next `k` events (it is scripted and not silent). -/
def State.consumerAnswers (s : State) (k : Nat) : Prop :=
  s.apiEn = true → k ≤ s.api.length ∧ ApiAnswer.silent ∉ s.api

/-- `k` steps, stopping at the first fault or refusal: the host's `core.run`, in this model's own types. -/
def runSteps : Nat → State → Res
  | 0, s => .next s
  | k + 1, s => andThen (step s) (runSteps k)

/-- Run `k` steps from the next state of an outcome. -/
def runFrom (o : Res) (k : Nat) : Res := andThen o (runSteps k)

/-- A safe run: some number of steps, each with a next state. -/
def State.runsTo (s : State) (k : Nat) (t : State) : Prop := runSteps k s = .next t

end Sys2Proof.Machine
end

