-- ==== Sys2Proof/Certificates/Slice0/Obligations.lean ====
section
/-!
DEFINITION. The statements for the provers, family by family. Each docstring names the rule of spec/ it
formalises; OBLIGATIONS.json lists them.
-/

open Sys2Proof Sys2Proof.Machine

/-! ### Encodings -/

/-- Words written out from the spec's encodings (30_encoding.md R76, R86, R28, R82) decode to their
instructions. -/
def Obligations.WrittenWordsDecode : Prop :=
  decodeDec Params.default DecCtx.zero 0b000010110101 = .ok .s1Sync ∧
  decodeDec Params.default DecCtx.zero 0b000101100010 = .ok .s2Match ∧
  decodeDec Params.default DecCtx.zero 0b001000000110 = .ok (.decClass 0x06) ∧
  decodeDec Params.default ⟨4, 3, 8, 0, 0⟩ 0b011000000100 = .ok (.payLast 0x04) ∧
  decodeDec Params.default ⟨0, 0, 0, 0x2A, 0x84⟩ 0b100010000101 = .ok (.ck2Miss 0x85) ∧
  decodeCmd 0b01000000110001001000000000000000000 = .sendWaitReply 0x0624 0 ∧
  decodeStrategy 0b10 0x0501 2 = .ok (.stratMatchAcknak 0x0501 2) ∧
  decodeMsgId Params.default 0b0000010100000000 2 = .ok (.msgidAckNak 2)

/-- Decode and encode agree: every well-formed instruction that has a word decodes back from it, with
every operand at every value. A decoder row is decoded in any registers that select it (R76). -/
def Obligations.DecodeEncodeAgree : Prop :=
  ∀ (p : Params) (r : DecCtx) (st : DecState) (i : Instr),
    p.valid = true → i.wellFormed p = true →
    (i.format = .dec → rowSelected p r st i = true) →
    i.format ≠ .micro → i.format ≠ .pseudo →
    ∃ c, encode p i = some c ∧ c.format = i.format ∧ decode p r c = .ok i

/-- R76: every (state, byte) pair selects exactly one row, in every registers; the decode word decodes to
it. -/
def Obligations.EveryDecodeWordSelectsOneRow : Prop :=
  ∀ (p : Params) (r : DecCtx) (st : DecState) (x : Byte),
    decodeDec p r (decodeWord st x) = .ok (selectRow p r st x) ∧
    rowSelected p r st (selectRow p r st x) = true ∧
    rowByte p (selectRow p r st x) = some x ∧
    ∀ i, rowSelected p r st i = true → rowByte p i = some x → i = selectRow p r st x

/-- R86: the fields of a command word, for every operand; ignored bits do not matter. -/
def Obligations.CommandWordFields : Prop :=
  ∀ (a b : Half),
    decodeCmd (cmdWord 0 a b) = .init (a.getLsbD 0) b ∧
    decodeCmd (cmdWord 1 a b) = .sendNoWait a b ∧
    decodeCmd (cmdWord 2 a b) = .sendWaitReply a b ∧
    decodeCmd (cmdWord 3 a b) = .sendWaitAck a b ∧
    decodeCmd (cmdWord 4 a b) = .readAll ∧
    decodeCmd (cmdWord 5 a b) = .cmdReserved5 ∧
    decodeCmd (cmdWord 6 a b) = .cmdReserved6 ∧
    decodeCmd (cmdWord 7 a b) = .cmdReserved7

/-- R79: the reserved codes are rejected by name: state codes 9 to 15, strategy code 3; a message id that
is neither of the two is opaque (R83). -/
def Obligations.ReservedCodesRejected : Prop :=
  (∀ (p : Params) (r : DecCtx) (w : BitVec 12), 9 ≤ (w.extractLsb' 8 4).toNat →
    decodeDec p r w = .error .reservedState) ∧
  (∀ (id n : Half), decodeStrategy 3 id n = .error .reservedStrategy) ∧
  (∀ (p : Params) (w : BitVec 16) (n : Half), w ≠ p.ackAckId → w ≠ p.ackNakId →
    decodeMsgId p w n = .error .opaqueMsgId)

/-! ### The checksum engine -/

/-- R100, R101: CK_INIT gives (0, 0); CK_UPDATE is two 8-bit sums modulo 256, the second with the new
first; on either pair. -/
def Obligations.ChecksumInitAndUpdate : Prop :=
  ∀ (p : CkPair) (x : Byte) (s : State),
    exec (.ckInit p) s = .next (s.setCkPair p (0, 0)) ∧
    ∃ a b : Byte,
      exec (.ckUpdate p x) s = .next (s.setCkPair p (a, b)) ∧
      a.toNat = ((s.ckPair p).1.toNat + x.toNat) % 256 ∧
      b.toNat = ((s.ckPair p).2.toNat + a.toNat) % 256

/-- R102: CK_FOLD over a byte sequence is CK_UPDATE over its bytes in order, and over a concatenation it
is the fold of the second part from the result of the first. -/
def Obligations.ChecksumFoldIsRepeatedUpdate : Prop :=
  ∀ (p : CkPair) (x : Byte) (xs ys : List Byte) (s : State),
    exec (.ckFold p []) s = .next s ∧
    exec (.ckFold p (x :: xs)) s = andThen (exec (.ckUpdate p x) s) (exec (.ckFold p xs)) ∧
    exec (.ckFold p (xs ++ ys)) s = andThen (exec (.ckFold p xs) s) (exec (.ckFold p ys)) ∧
    ∃ a b : Byte, exec (.ckFold p xs) s = .next (s.setCkPair p (a, b))

/-- R103: the closed form of the checksum folded from (0, 0): the sum, and the sum weighted by the
distance to the end, modulo 256; and its consequences: byte order matters to the second accumulator only;
changing exactly one byte always changes the first, and a change of 0x80 at an even weight never the
second; 256 equal bytes. -/
def Obligations.ChecksumClosedForm : Prop :=
  (∀ xs : List Byte,
    (ckFold (0, 0) xs).1.toNat = (xs.map BitVec.toNat).sum % 256 ∧
    (ckFold (0, 0) xs).2.toNat =
      ((List.range xs.length).map fun i => (xs.length - i) * (xs.getD i 0).toNat).sum % 256) ∧
  (∀ xs ys : List Byte, xs.Perm ys → (ckFold (0, 0) xs).1 = (ckFold (0, 0) ys).1) ∧
  (∃ xs ys : List Byte, xs.Perm ys ∧ (ckFold (0, 0) xs).2 ≠ (ckFold (0, 0) ys).2) ∧
  (∀ (pre post : List Byte) (x y : Byte), x ≠ y →
    (ckFold (0, 0) (pre ++ x :: post)).1 ≠ (ckFold (0, 0) (pre ++ y :: post)).1) ∧
  (∀ (pre post : List Byte) (x : Byte), (post.length + 1) % 2 = 0 →
    (ckFold (0, 0) (pre ++ x :: post)).2 = (ckFold (0, 0) (pre ++ (x + 0x80) :: post)).2) ∧
  (∀ v : Byte, (ckFold (0, 0) (List.replicate 256 v)).1 = 0) ∧
  ckFold (0, 0) (List.replicate 256 0xFF) = (0x00, 0x80)

/-! ### The decoder's rows -/

/-- R112, R113, R114: the three rows of state SYNC1, each with its selection and its whole effect. -/
def Obligations.HuntRows : Prop :=
  ∀ s : State, s.state = .sync1 →
    (decodeDec s.cfg s.decCtx (decodeWord .sync1 s.cfg.sync1) = .ok .s1Sync ∧
      exec .s1Sync s = .next { s with idleRun := 0, state := .sync2, feedRes := .parsing }) ∧
    (s.cfg.idle ≠ s.cfg.sync1 →
      decodeDec s.cfg s.decCtx (decodeWord .sync1 s.cfg.idle) = .ok .s1Idle ∧
      ∃ v : Half, v.toNat = min (s.idleRun.toNat + 1) 65535 ∧
        exec .s1Idle s = .next { s with idleRun := v, feedRes := .parsing }) ∧
    (∀ x : Byte, x ≠ s.cfg.sync1 → x ≠ s.cfg.idle →
      decodeDec s.cfg s.decCtx (decodeWord .sync1 x) = .ok (.s1Other x) ∧
      exec (.s1Other x) s = .next { s with idleRun := 0, feedRes := .parsing })

/-- R115, R116: the two rows of state SYNC2. A miss raises FE_SYNC2: RESET_DEC is its whole effect, and
the byte is not taken as a new first sync byte, whatever it is. -/
def Obligations.SecondSyncRows : Prop :=
  ∀ s : State, s.state = .sync2 →
    (decodeDec s.cfg s.decCtx (decodeWord .sync2 s.cfg.sync2) = .ok .s2Match ∧
      exec .s2Match s = .next { s with state := .cls, feedRes := .parsing }) ∧
    (∀ x : Byte, x ≠ s.cfg.sync2 →
      decodeDec s.cfg s.decCtx (decodeWord .sync2 x) = .ok (.s2Miss x) ∧
      exec (.s2Miss x) s = .next { s with
        state := .sync1, ckA := 0, ckB := 0, msgId := 0, len := 0, cnt := 0, idleRun := 0,
        trace := .feSync2 :: s.trace, feedRes := .parsing })

/-- R117, R118: CLASS and ID fold their byte into the checksum and assemble the message id, class in the
high byte. -/
def Obligations.ClassAndIdRows : Prop :=
  ∀ (s : State) (x : Byte),
    (s.state = .cls →
      decodeDec s.cfg s.decCtx (decodeWord .cls x) = .ok (.decClass x) ∧
      ∃ v : Half, v.toNat = x.toNat ∧
        exec (.decClass x) s = .next { s with
          ckA := (ckUpdate (s.ckA, s.ckB) x).1, ckB := (ckUpdate (s.ckA, s.ckB) x).2,
          msgId := v, state := .id, feedRes := .parsing }) ∧
    (s.state = .id →
      decodeDec s.cfg s.decCtx (decodeWord .id x) = .ok (.decId x) ∧
      ∃ v : Half, v.toNat = 256 * (s.msgId.toNat % 256) + x.toNat ∧
        exec (.decId x) s = .next { s with
          ckA := (ckUpdate (s.ckA, s.ckB) x).1, ckB := (ckUpdate (s.ckA, s.ckB) x).2,
          msgId := v, state := .length1, feedRes := .parsing })

/-- R119, R120: the length bytes, low byte first; a zero length goes to CHKSUM1, any other to PAYLOAD;
the length is not compared with the capacity. -/
def Obligations.LengthRows : Prop :=
  ∀ (s : State) (x : Byte),
    (s.state = .length1 →
      decodeDec s.cfg s.decCtx (decodeWord .length1 x) = .ok (.len1 x) ∧
      ∃ v : Half, v.toNat = x.toNat ∧
        exec (.len1 x) s = .next { s with
          ckA := (ckUpdate (s.ckA, s.ckB) x).1, ckB := (ckUpdate (s.ckA, s.ckB) x).2,
          len := v, state := .length2, feedRes := .parsing }) ∧
    (s.state = .length2 → ∀ v : Half, v.toNat = 256 * x.toNat + s.len.toNat % 256 →
      (v = 0 →
        decodeDec s.cfg s.decCtx (decodeWord .length2 x) = .ok .len2Zero ∧
        exec .len2Zero s = .next { s with
          ckA := (ckUpdate (s.ckA, s.ckB) x).1, ckB := (ckUpdate (s.ckA, s.ckB) x).2,
          len := v, state := .chksum1, feedRes := .parsing }) ∧
      (v ≠ 0 →
        decodeDec s.cfg s.decCtx (decodeWord .length2 x) = .ok (.len2Nz x) ∧
        exec (.len2Nz x) s = .next { s with
          ckA := (ckUpdate (s.ckA, s.ckB) x).1, ckB := (ckUpdate (s.ckA, s.ckB) x).2,
          len := v, state := .payload, feedRes := .parsing }))

/-- R121, R122: a payload byte that fits is folded, stored at `cnt` and counted; the one that completes the
declared length goes to CHKSUM1; every other byte of PB reads as before. One past the capacity raises
FE_OVERRUN: RESET_DEC is its whole effect, PB is not written. -/
def Obligations.PayloadRows : Prop :=
  ∀ (s : State) (x : Byte), s.state = .payload →
    (s.cap.toNat ≤ s.cnt.toNat →
      decodeDec s.cfg s.decCtx (decodeWord .payload x) = .ok (.payOverrun x) ∧
      exec (.payOverrun x) s = .next { s with
        state := .sync1, ckA := 0, ckB := 0, msgId := 0, len := 0, cnt := 0, idleRun := 0,
        trace := .feOverrun :: s.trace, feedRes := .parsing }) ∧
    (s.cnt.toNat < s.cap.toNat → s.cnt + 1 ≠ s.len →
      decodeDec s.cfg s.decCtx (decodeWord .payload x) = .ok (.payStore x) ∧
      exec (.payStore x) s = .next { s with
        ckA := (ckUpdate (s.ckA, s.ckB) x).1, ckB := (ckUpdate (s.ckA, s.ckB) x).2,
        pb := Memory.set s.pb s.cnt.toNat x, cnt := s.cnt + 1, feedRes := .parsing }) ∧
    (s.cnt.toNat < s.cap.toNat → s.cnt + 1 = s.len →
      decodeDec s.cfg s.decCtx (decodeWord .payload x) = .ok (.payLast x) ∧
      exec (.payLast x) s = .next { s with
        ckA := (ckUpdate (s.ckA, s.ckB) x).1, ckB := (ckUpdate (s.ckA, s.ckB) x).2,
        pb := Memory.set s.pb s.cnt.toNat x, cnt := s.len, state := .chksum1,
        feedRes := .parsing }) ∧
    (s.cnt.toNat < s.cap.toNat → (s.cnt + 1).toNat = s.cnt.toNat + 1) ∧
    ∀ t : State, t.pb = Memory.set s.pb s.cnt.toNat x →
      t.pbByte s.cnt.toNat = x ∧ samePBOutside s.cnt.toNat 1 s t

/-- R123, R124: the two rows of state CHKSUM1. -/
def Obligations.FirstChecksumRows : Prop :=
  ∀ (s : State) (x : Byte), s.state = .chksum1 →
    (x = s.ckA →
      decodeDec s.cfg s.decCtx (decodeWord .chksum1 x) = .ok (.ck1Match x) ∧
      exec (.ck1Match x) s = .next { s with state := .chksum2, feedRes := .parsing }) ∧
    (x ≠ s.ckA →
      decodeDec s.cfg s.decCtx (decodeWord .chksum1 x) = .ok (.ck1Miss x) ∧
      exec (.ck1Miss x) s = .next { s with
        state := .sync1, ckA := 0, ckB := 0, msgId := 0, len := 0, cnt := 0, idleRun := 0,
        trace := .feCkA :: s.trace, feedRes := .parsing })

/-- R125, R126: the two rows of state CHKSUM2. A match captures the id and the length, resets the decoder
and accepts; a miss is a framing error under CK2_STRICT, and otherwise the mark CK_B_IGNORED and the same
accept. -/
def Obligations.SecondChecksumRows : Prop :=
  ∀ (s : State) (x : Byte), s.state = .chksum2 →
    (x = s.ckB →
      decodeDec s.cfg s.decCtx (decodeWord .chksum2 x) = .ok (.ck2Match x) ∧
      exec (.ck2Match x) s = exec (.accept s.msgId s.len) { s with
        state := .sync1, ckA := 0, ckB := 0, msgId := 0, len := 0, cnt := 0, idleRun := 0 }) ∧
    (x ≠ s.ckB →
      decodeDec s.cfg s.decCtx (decodeWord .chksum2 x) = .ok (.ck2Miss x) ∧
      (s.cfg.ck2Strict = true →
        exec (.ck2Miss x) s = .next { s with
          state := .sync1, ckA := 0, ckB := 0, msgId := 0, len := 0, cnt := 0, idleRun := 0,
          trace := .feCkB :: s.trace, feedRes := .parsing }) ∧
      (s.cfg.ck2Strict = false →
        exec (.ck2Miss x) s = exec (.accept s.msgId s.len) { s with
          state := .sync1, ckA := 0, ckB := 0, msgId := 0, len := 0, cnt := 0, idleRun := 0,
          trace := .ckBIgnored :: s.trace }))

/-- A decoder row is refused by name exactly where R76 does not select it (assumption log 17, the model's
choice). -/
def Obligations.UnselectedRowRefused : Prop :=
  ∀ (s : State) (i : Instr), i.format = .dec →
    (exec i s = .refused .rowNotSelected ↔ s.selects i = false)

/-- R111: RESET_DEC writes the per-frame registers and `idle_run` and nothing else. -/
def Obligations.ResetDecResult : Prop :=
  ∀ s : State, exec .resetDec s = .next { s with
    state := .sync1, ckA := 0, ckB := 0, msgId := 0, len := 0, cnt := 0, idleRun := 0 }

/-- R110: a FEED performs the row that its decode word decodes to. -/
def Obligations.FeedPerformsTheDecodedRow : Prop :=
  ∀ (s : State) (x : Byte) (i : Instr),
    decodeDec s.cfg s.decCtx (decodeWord s.state x) = .ok i → exec (.feed x) s = exec i s

/-- R127: a FEED returns PARSING if and only if it produced no frame-accept event; and it produces at most
one. -/
def Obligations.FeedParsingIffNoAccept : Prop :=
  ∀ (s t : State) (x : Byte), exec (.feed x) s = .next t →
    ∃ new : List TraceEvent, t.trace = new ++ s.trace ∧
      (t.feedRes = .parsing ↔ ∀ id n, TraceEvent.accepted id n ∉ new) ∧
      (t.feedRes ≠ .parsing → new.count (.accepted s.msgId s.len) = 1 ∧
        ∀ id n, TraceEvent.accepted id n ∈ new → id = s.msgId ∧ n = s.len)

/-- R131: the complete transition relation of `state`, with the event of each entry. -/
def Obligations.TransitionRelation : Prop :=
  ∀ (s t : State) (x : Byte), exec (.feed x) s = .next t →
    (s.state = .sync1 → x = s.cfg.sync1 →
      t.state = .sync2 ∧ t.feedRes = .parsing ∧ t.trace = s.trace) ∧
    (s.state = .sync1 → x ≠ s.cfg.sync1 → x = s.cfg.idle →
      t.state = .sync1 ∧ t.idleRun.toNat = min (s.idleRun.toNat + 1) 65535 ∧
        t.feedRes = .parsing ∧ t.trace = s.trace) ∧
    (s.state = .sync1 → x ≠ s.cfg.sync1 → x ≠ s.cfg.idle →
      t.state = .sync1 ∧ t.idleRun = 0 ∧ t.feedRes = .parsing ∧ t.trace = s.trace) ∧
    (s.state = .sync2 → x = s.cfg.sync2 →
      t.state = .cls ∧ t.feedRes = .parsing ∧ t.trace = s.trace) ∧
    (s.state = .sync2 → x ≠ s.cfg.sync2 →
      t.state = .sync1 ∧ t.feedRes = .parsing ∧ t.trace = .feSync2 :: s.trace) ∧
    (s.state = .cls → t.state = .id ∧ t.feedRes = .parsing ∧ t.trace = s.trace) ∧
    (s.state = .id → t.state = .length1 ∧ t.feedRes = .parsing ∧ t.trace = s.trace) ∧
    (s.state = .length1 → t.state = .length2 ∧ t.feedRes = .parsing ∧ t.trace = s.trace) ∧
    (s.state = .length2 → t.len = 0 →
      t.state = .chksum1 ∧ t.feedRes = .parsing ∧ t.trace = s.trace) ∧
    (s.state = .length2 → t.len ≠ 0 →
      t.state = .payload ∧ t.feedRes = .parsing ∧ t.trace = s.trace) ∧
    (s.state = .payload → s.cap.toNat ≤ s.cnt.toNat →
      t.state = .sync1 ∧ t.feedRes = .parsing ∧ t.trace = .feOverrun :: s.trace) ∧
    (s.state = .payload → s.cnt.toNat < s.cap.toNat → s.cnt.toNat + 1 < s.len.toNat →
      t.state = .payload ∧ t.pbByte s.cnt.toNat = x ∧ t.feedRes = .parsing ∧
        t.trace = s.trace) ∧
    (s.state = .payload → s.cnt.toNat < s.cap.toNat → s.cnt.toNat + 1 = s.len.toNat →
      t.state = .chksum1 ∧ t.pbByte s.cnt.toNat = x ∧ t.feedRes = .parsing ∧
        t.trace = s.trace) ∧
    (s.state = .chksum1 → x = s.ckA →
      t.state = .chksum2 ∧ t.feedRes = .parsing ∧ t.trace = s.trace) ∧
    (s.state = .chksum1 → x ≠ s.ckA →
      t.state = .sync1 ∧ t.feedRes = .parsing ∧ t.trace = .feCkA :: s.trace) ∧
    (s.state = .chksum2 → x = s.ckB →
      t.state = .sync1 ∧ t.feedRes ≠ .parsing ∧
        ∃ new, t.trace = new ++ .accepted s.msgId s.len :: s.trace) ∧
    (s.state = .chksum2 → x ≠ s.ckB → s.cfg.ck2Strict = true →
      t.state = .sync1 ∧ t.feedRes = .parsing ∧ t.trace = .feCkB :: s.trace) ∧
    (s.state = .chksum2 → x ≠ s.ckB → s.cfg.ck2Strict = false →
      t.state = .sync1 ∧ t.feedRes ≠ .parsing ∧
        ∃ new, t.trace = new ++ .accepted s.msgId s.len :: .ckBIgnored :: s.trace)

/-- The frame of every FEED: no configuration or dispatcher register changes but `match_result` and
`rx_len`, which only an accept may write; PB changes at `cnt` only, and only in PAYLOAD below the
capacity; the transport port and the control are untouched; the consumer is asked only by an accept. -/
def Obligations.FeedFrame : Prop :=
  ∀ (s t : State) (x : Byte), exec (.feed x) s = .next t →
    sameRegsExcept
      [.state, .ckA, .ckB, .msgId, .len, .cnt, .idleRun, .matchResult, .rxLen] s t ∧
    (t.feedRes = .parsing → t.matchResult = s.matchResult ∧ t.rxLen = s.rxLen ∧ sameApi s t) ∧
    (s.state = .payload → s.cnt.toNat < s.cap.toNat →
      t.pbByte s.cnt.toNat = x ∧ samePBOutside s.cnt.toNat 1 s t) ∧
    ((s.state ≠ .payload ∨ s.cap.toNat ≤ s.cnt.toNat) → samePB s t) ∧
    sameTransport s t ∧ sameControl s t

/-- R128: feeding in bulk is feeding one byte at a time, and nothing else. -/
def Obligations.BulkFeedIsByteFeed : Prop :=
  ∀ (s : State) (x : Byte) (xs ys : List Byte),
    exec (.feedBulk []) s = .next s ∧
    exec (.feedBulk [x]) s = exec (.feed x) s ∧
    exec (.feedBulk (xs ++ ys)) s = andThen (exec (.feedBulk xs) s) (exec (.feedBulk ys))

/-- R129: what a whole frame does to a hunting decoder: accepted with its payload in PB; lost at a wrong
CK_A; decided by CK2_STRICT at a wrong CK_B; aborted at byte `cap` of an oversized payload, whose first
`cap` bytes stay in PB. -/
def Obligations.WholeFrameBehaviour : Prop :=
  ∀ (s : State) (id n : Half) (payload : List Byte),
    s.state = .sync1 → s.ckA = 0 → s.ckB = 0 → s.cnt = 0 → payload.length = n.toNat →
    let done : State := { s with
      pb := Memory.setFrom s.pb 0 payload,
      state := .sync1, ckA := 0, ckB := 0, msgId := 0, len := 0, cnt := 0, idleRun := 0,
      feedRes := .parsing }
    let covered := [s.cfg.sync1, s.cfg.sync2] ++ (frameHeader id n ++ payload)
    let ck := frameChecksum id n payload
    (n.toNat ≤ s.cap.toNat →
      exec (.feedBulk (frameBytes s.cfg id n payload)) s = exec (.accept id n) done ∧
      (∀ k0 : Byte, k0 ≠ ck.1 →
        exec (.feedBulk (covered ++ [k0])) s = .next (done.record .feCkA)) ∧
      (∀ k1 : Byte, k1 ≠ ck.2 → s.cfg.ck2Strict = true →
        exec (.feedBulk (covered ++ [ck.1, k1])) s = .next (done.record .feCkB)) ∧
      (∀ k1 : Byte, k1 ≠ ck.2 → s.cfg.ck2Strict = false →
        exec (.feedBulk (covered ++ [ck.1, k1])) s =
          exec (.accept id n) (done.record .ckBIgnored))) ∧
    (s.cap.toNat < n.toNat →
      exec (.feedBulk ([s.cfg.sync1, s.cfg.sync2] ++ frameHeader id n ++
          payload.take (s.cap.toNat + 1))) s =
        .next { done.record .feOverrun with
          pb := Memory.setFrom s.pb 0 (payload.take s.cap.toNat) })

/-- R105: the encoder's frame, fed to a hunting decoder, is accepted as `(id, n)` with PB unchanged; the
bytes before the last are PARSING; its last two bytes are the checksum of what lies between. -/
def Obligations.EncodeThenDecode : Prop :=
  ∀ (s : State) (id n : Half), s.decClean → n.toNat ≤ s.cap.toNat →
    ∃ t u v : State,
      exec (.encodeFrame id n) s = .next t ∧
      t.txFrame.length = n.toNat + 8 ∧
      [t.txCkA, t.txCkB] = t.txFrame.drop (n.toNat + 6) ∧
      (t.txCkA, t.txCkB) = ckFold (0, 0) ((t.txFrame.drop 2).take (n.toNat + 4)) ∧
      exec (.feedBulk (t.txFrame.take (n.toNat + 7))) t = .next v ∧ v.feedRes = .parsing ∧
      v.trace = s.trace ∧
      exec (.feedBulk t.txFrame) t = exec (.accept id n) u ∧ samePB s u ∧ u.decClean

/-- A FEED, and a bulk or chunk of them, completes in every state that meets the invariant, whatever the
bytes, when the consumer (if any) answers. -/
def Obligations.FeedingCompletes : Prop :=
  ∀ (s : State) (xs : List Byte), s.Inv → s.consumerAnswers xs.length →
    (∃ t, exec (.feedBulk xs) s = .next t ∧ t.Inv ∧ t.todo = s.todo ∧ t.chunk = s.chunk) ∧
    (∃ t, exec (.feedChunk xs) s = .next t ∧ t.Inv ∧ t.todo = s.todo ∧ t.chunk = s.chunk) ∧
    (∀ x ∈ xs, ∃ t, exec (.feed x) s = .next t ∧ t.Inv)

/-! ### The frame-accept step and the strategies -/

/-- R141, R142: NONE returns CONTINUE and writes nothing; MATCH_REPLY claims a frame by its id alone and
records its length. -/
def Obligations.NoneAndReplyStrategies : Prop :=
  ∀ (s : State) (id n : Half),
    exec .stratNone s = .next { s with feedRes := .cont } ∧
    (id = s.awaitId → exec (.stratMatchReply id n) s =
      .next { s with matchResult := .replied, rxLen := n, feedRes := .stop }) ∧
    (id ≠ s.awaitId → exec (.stratMatchReply id n) s = .next { s with feedRes := .cont })

/-- R143 (with R82, R84): MATCH_ACKNAK claims an ACK-ACK or ACK-NAK frame that holds the acknowledged class
and id, where they name the awaited id, and no other; the two message-id rows are its two branches. The layout
is a parameter (R7, U17); in the spec's own the two bytes are `PB[0]` and `PB[1]` of at least two. Where such a
frame lies outside PB the read faults by name. -/
def Obligations.AckNakStrategy : Prop :=
  (Params.default.ackClassAt = 0 ∧ Params.default.ackIdAt = 1 ∧ Params.default.ackLen = 2) ∧
  ∀ (s : State) (id n : Half), s.cfg.ackAckId ≠ s.cfg.ackNakId →
    (id ≠ s.cfg.ackAckId → id ≠ s.cfg.ackNakId →
      exec (.stratMatchAcknak id n) s = .next { s with feedRes := .cont }) ∧
    (exec (.stratMatchAcknak s.cfg.ackAckId n) s = exec (.msgidAckAck n) s) ∧
    (exec (.stratMatchAcknak s.cfg.ackNakId n) s = exec (.msgidAckNak n) s) ∧
    (n.toNat < s.cfg.ackLen →
      exec (.msgidAckAck n) s = .next { s with feedRes := .cont } ∧
      exec (.msgidAckNak n) s = .next { s with feedRes := .cont }) ∧
    (s.cfg.ackLen ≤ n.toNat → s.cfg.ackLen ≤ s.cap.toNat →
      (s.awaitId.toNat =
          256 * (s.pbByte s.cfg.ackClassAt).toNat + (s.pbByte s.cfg.ackIdAt).toNat →
        exec (.msgidAckAck n) s = .next { s with matchResult := .acked, feedRes := .stop } ∧
        exec (.msgidAckNak n) s = .next { s with matchResult := .naked, feedRes := .stop }) ∧
      (s.awaitId.toNat ≠
          256 * (s.pbByte s.cfg.ackClassAt).toNat + (s.pbByte s.cfg.ackIdAt).toNat →
        exec (.msgidAckAck n) s = .next { s with feedRes := .cont } ∧
        exec (.msgidAckNak n) s = .next { s with feedRes := .cont })) ∧
    (s.cfg.ackLen ≤ n.toNat → s.cap.toNat < s.cfg.ackLen →
      exec (.msgidAckAck n) s = .fault .pbOutOfRange ∧
      exec (.msgidAckNak n) s = .fault .pbOutOfRange)

/-- R140, R145, R148: ACCEPT is one frame-accept event: the strategy `int_cb` selects runs first, and the
API consumer is asked only if it answered CONTINUE and a consumer is attached; with no consumer at all the
result is CONTINUE. -/
def Obligations.AcceptChain : Prop :=
  ∀ (s t : State) (id n : Half),
    exec (strategyRow s.intCb id n) (s.record (.accepted id n)) = .next t →
    (t.feedRes = .cont → t.apiEn = true → exec (.accept id n) s = exec (.apiDeliver id n) t) ∧
    (t.feedRes = .cont → t.apiEn = false → exec (.accept id n) s = .next t) ∧
    (t.feedRes = .stop → exec (.accept id n) s = .next t) ∧
    (t.feedRes = .cont ∨ t.feedRes = .stop) ∧
    (s.apiEn = false →
      (s.intCb = .none → exec (.accept id n) s =
        .next { s with trace := .accepted id n :: s.trace, feedRes := .cont }) ∧
      (s.intCb = .matchReply → id ≠ s.awaitId → exec (.accept id n) s =
        .next { s with trace := .accepted id n :: s.trace, feedRes := .cont }))

/-- R146: the consumer's answer is the result, and on the port it is one bit, 0 = CONTINUE and 1 = STOP (R81);
a consumer that never answers is a stuck machine (U12); an event with no consumer attached is refused by name
(assumption log 28, the model's choice). -/
def Obligations.ApiDelivery : Prop :=
  ∀ (s : State) (id n : Half) (a : ApiAnswer) (rest : List ApiAnswer), s.api = a :: rest →
    (s.apiEn = true → a = .stop → exec (.apiDeliver id n) s = .next { s with
      api := rest, fresh := s.fresh + 1, trace := .delivered id n :: s.trace,
      feedRes := .stop }) ∧
    (s.apiEn = true → a = .cont → exec (.apiDeliver id n) s = .next { s with
      api := rest, fresh := s.fresh + 1, trace := .delivered id n :: s.trace,
      feedRes := .cont }) ∧
    (s.apiEn = true → a = .silent → exec (.apiDeliver id n) s = .fault .consumerSilent) ∧
    (∀ b : BitVec 1, s.apiEn = true → a.code = some b → ∃ t,
      exec (.apiDeliver id n) s = .next t ∧ (b = 0 → t.feedRes = .cont) ∧
      (b = 1 → t.feedRes = .stop)) ∧
    (s.apiEn = false → exec (.apiDeliver id n) s = .refused .noConsumer)

/-- ACCEPT, and the two CHKSUM2 rows that end in it, complete when the strategy's reads lie in PB and the
consumer (if any) answers; the result is STOP or CONTINUE, and only `match_result` and `rx_len` of the
registers may change beyond RESET_DEC's. -/
def Obligations.AcceptCompletes : Prop :=
  ∀ (s : State), s.consumerAnswers 1 →
    (∀ id n : Half, s.strategyInPB id n →
      ∃ t, exec (.accept id n) s = .next t ∧ t.feedRes ≠ .parsing ∧
        sameRegsExcept [.matchResult, .rxLen] s t ∧ samePB s t ∧ sameTransport s t ∧
        sameControl s t) ∧
    (∀ x : Byte, s.state = .chksum2 → s.strategyInPB s.msgId s.len →
      (x = s.ckB → ∃ t, exec (.ck2Match x) s = .next t ∧ t.feedRes ≠ .parsing ∧
        t.state = .sync1 ∧ samePB s t ∧
        sameRegsExcept [.state, .ckA, .ckB, .msgId, .len, .cnt, .idleRun, .matchResult, .rxLen]
          s t) ∧
      (x ≠ s.ckB → ∃ t, exec (.ck2Miss x) s = .next t ∧
        (t.feedRes = .parsing ↔ s.cfg.ck2Strict = true) ∧ t.state = .sync1 ∧ samePB s t ∧
        sameRegsExcept [.state, .ckA, .ckB, .msgId, .len, .cnt, .idleRun, .matchResult, .rxLen]
          s t))

/-! ### The dispatcher's micro-operations -/

/-- R160, R161: ENCODE gives the wire frame of `PB[0..n-1]`, class first, length low byte first, the
checksum last; the transmit pair holds it; PB and the receive pair are untouched. Past the capacity the
read faults by name. -/
def Obligations.EncodeResult : Prop :=
  ∀ (s : State) (c i lo hi : Byte),
    ((hi ++ lo : Half).toNat ≤ s.cap.toNat →
      let body := [c, i, lo, hi] ++ (List.range (hi ++ lo : Half).toNat).map s.pbByte
      exec (.encodeFrame (c ++ i) (hi ++ lo)) s = .next { s with
        txCkA := (ckFold (0, 0) body).1, txCkB := (ckFold (0, 0) body).2,
        txFrame := [s.cfg.sync1, s.cfg.sync2] ++ body ++
          [(ckFold (0, 0) body).1, (ckFold (0, 0) body).2] }) ∧
    (s.cap.toNat < (hi ++ lo : Half).toNat →
      exec (.encodeFrame (c ++ i) (hi ++ lo)) s = .fault .pbOutOfRange)

/-- R162, R215: TXRX encodes the frame first, then makes one transceive: on Ok the frame joins the TX
stream and exactly as many bytes of the RX stream wait to be fed; on Err no byte is fed and the error is
kept; a transport that never answers is a stuck machine (U12). -/
def Obligations.TxrxResult : Prop :=
  ∀ (s : State) (id n : Half) (a : TpAnswer) (rest : List TpAnswer),
    n.toNat ≤ s.cap.toNat → s.tp = a :: rest →
    let frame := frameBytes s.cfg id n (s.pbBytes n.toNat)
    let ck := frameChecksum id n (s.pbBytes n.toNat)
    frame.length = n.toNat + 8 ∧ (s.rxNext frame.length).length = n.toNat + 8 ∧
    (a = .ok → exec (.txrx id n) s = .next { s with
      dphase := .txrx, txCkA := ck.1, txCkB := ck.2, txFrame := frame, tp := rest,
      tx := s.tx ++ frame, rx := s.rx.drop frame.length,
      chunk := s.chunk ++ s.rxNext frame.length,
      trace := .transceive frame.length true :: s.trace, ret := .done,
      fresh := s.fresh + 1 }) ∧
    (∀ (e : Half) (sent : Nat), a = .err e sent → exec (.txrx id n) s = .next { s with
      dphase := .txrx, txCkA := ck.1, txCkB := ck.2, txFrame := frame, tp := rest,
      tx := s.tx ++ frame.take sent,
      trace := .transceive frame.length false :: s.trace, ret := .failed e,
      fresh := s.fresh + 1 }) ∧
    (a = .silent → exec (.txrx id n) s = .fault .transportSilent)

/-- R164, R215: READ_CHUNK makes one read of CHUNK_LEN bytes in D_SCAN. -/
def Obligations.ReadChunkResult : Prop :=
  ∀ (s : State) (a : TpAnswer) (rest : List TpAnswer), s.tp = a :: rest →
    (s.rxNext s.cfg.chunkLen).length = s.cfg.chunkLen ∧
    (a = .ok → exec .readChunk s = .next { s with
      dphase := .scan, tp := rest, rx := s.rx.drop s.cfg.chunkLen,
      chunk := s.chunk ++ s.rxNext s.cfg.chunkLen,
      trace := .read s.cfg.chunkLen true :: s.trace, ret := .done, fresh := s.fresh + 1 }) ∧
    (∀ (e : Half) (sent : Nat), a = .err e sent → exec .readChunk s = .next { s with
      dphase := .scan, tp := rest, trace := .read s.cfg.chunkLen false :: s.trace,
      ret := .failed e, fresh := s.fresh + 1 }) ∧
    (a = .silent → exec .readChunk s = .fault .transportSilent)

/-- R163: FEED_CHUNK feeds every byte in order, latches a STOP and goes on feeding after it. -/
def Obligations.FeedChunkFeedsEveryByte : Prop :=
  ∀ (s : State) (x : Byte) (c : List Byte),
    exec (.feedChunk []) s = .next s ∧
    (∀ t, exec (.feed x) s = .next t → t.feedRes = .stop →
      exec (.feedChunk (x :: c)) s = exec (.feedChunk c) { t with stopSeen := true }) ∧
    (∀ t, exec (.feed x) s = .next t → t.feedRes ≠ .stop →
      exec (.feedChunk (x :: c)) s = exec (.feedChunk c) t) ∧
    (∀ t, exec (.feedChunk c) s = .next t → s.stopSeen = true → t.stopSeen = true)

/-- The chunk buffer of R41: stepping the machine once per waiting byte is FEED_CHUNK of those bytes, the
stuck consumer included. The byte-at-a-time machine and the chunk-at-a-time operation agree. -/
def Obligations.ChunkBufferIsFeedChunk : Prop :=
  ∀ (s : State) (c : List Byte), s.chunk = [] →
    runSteps c.length ({ s with chunk := c } : State) = exec (.feedChunk c) s

/-- R166: the end-of-chunk test: STOP first, then the idle bound (reached, not exceeded); otherwise one
more chunk is read and the test made again. -/
def Obligations.SessionLoopTest : Prop :=
  ∀ s : State,
    (s.stopSeen = true → exec .sessionLoop s = .next { s with ret := .stopped }) ∧
    (s.stopSeen = false → s.cfg.idleBound ≤ s.idleRun.toNat →
      exec .sessionLoop s = .next { s with ret := .timedOut }) ∧
    (s.stopSeen = false → s.idleRun.toNat < s.cfg.idleBound →
      exec .sessionLoop s =
        .next { s with todo := .run .readChunk :: .loopUnlessFailed :: s.todo } ∧
      ∀ (e : Half) (t : State), t.chunk = [] → t.todo = .loopUnlessFailed :: s.todo →
        (t.ret = .failed e → step t = .next { t with todo := s.todo }) ∧
        (t.ret = .done → step t = exec .sessionLoop { t with todo := s.todo }))

/-- R165, R168, R169: SESSION_BEGIN writes three registers and leaves the decoder where it was; EXCHANGE is
SESSION_BEGIN, TXRX and, unless that failed, SESSION_LOOP; SCAN is SESSION_BEGIN and SESSION_LOOP. -/
def Obligations.SessionBeginAndComposites : Prop :=
  ∀ (s : State) (id n : Half) (st : Strategy),
    exec (.sessionBegin st) s = .next { s with intCb := st, stopSeen := false, idleRun := 0 } ∧
    exec (.exchange id n st) s = .next { s with
      todo := .run (.sessionBegin st) :: .run (.txrx id n) :: .loopUnlessFailed :: s.todo } ∧
    exec (.scan st) s = .next { s with
      todo := .run (.sessionBegin st) :: .run .sessionLoop :: s.todo }

/-! ### Commands -/

/-- R170: INIT, whenever no command is in progress, in every state, initialised or not. `io_code`, PB and
the link are not touched. -/
def Obligations.InitResult : Prop :=
  ∀ (s : State) (api : Bool) (cap : Half), s.dphase = .idle →
    exec (.init api cap) s = .next { s with
      cap := cap, apiEn := api, state := .sync1, ckA := 0, ckB := 0, msgId := 0, len := 0,
      cnt := 0, idleRun := 0, intCb := .none, awaitId := 0, matchResult := .none, rxLen := 0,
      stopSeen := false, txCkA := 0, txCkB := 0, outcome := .ok, dphase := .idle,
      inited := true }

/-- R171 to R174: the acceptance of the four other commands when R175 does not refuse them: the exchange
context, the phase of R179, and the operations each is made of. -/
def Obligations.CommandsAccepted : Prop :=
  ∀ (s : State) (id n : Half), s.inited = true → s.dphase = .idle →
    (n.toNat ≤ s.cap.toNat →
      exec (.sendNoWait id n) s = .next { s with
        matchResult := .none, rxLen := 0, awaitId := id, dphase := .txrx,
        todo := .run (.exchange id n .none) :: .finish .noWait :: s.todo } ∧
      exec (.sendWaitReply id n) s = .next { s with
        matchResult := .none, rxLen := 0, awaitId := id, dphase := .txrx,
        todo := .run (.exchange id n .matchReply) :: .finish .reply :: s.todo } ∧
      exec (.sendWaitAck id n) s = .next { s with
        matchResult := .none, rxLen := 0, awaitId := id, dphase := .txrx,
        todo := .run (.sessionBegin .none) :: .run (.txrx id n) :: .scanUnlessFailed ::
          .finish .ack :: s.todo }) ∧
    exec .readAll s = .next { s with
      matchResult := .none, rxLen := 0, dphase := .scan,
      todo := .run (.scan .none) :: .finish .readAll :: s.todo }

/-- R175: when a command is refused, by name; a refusal has no next state. -/
def Obligations.CommandsRefused : Prop :=
  ∀ (s : State) (id n : Half) (api : Bool),
    (s.inited = false →
      exec (.sendNoWait id n) s = .refused .notInitialised ∧
      exec (.sendWaitReply id n) s = .refused .notInitialised ∧
      exec (.sendWaitAck id n) s = .refused .notInitialised ∧
      exec .readAll s = .refused .notInitialised) ∧
    (exec .cmdReserved5 s = .refused .reservedCommand ∧
      exec .cmdReserved6 s = .refused .reservedCommand ∧
      exec .cmdReserved7 s = .refused .reservedCommand) ∧
    (s.inited = true → s.dphase = .idle → s.cap.toNat < n.toNat →
      exec (.sendNoWait id n) s = .refused .sendTooLong ∧
      exec (.sendWaitReply id n) s = .refused .sendTooLong ∧
      exec (.sendWaitAck id n) s = .refused .sendTooLong) ∧
    (s.dphase ≠ .idle →
      exec (.init api n) s = .refused .busy ∧
      (s.inited = true →
        exec (.sendNoWait id n) s = .refused .busy ∧
        exec (.sendWaitReply id n) s = .refused .busy ∧
        exec (.sendWaitAck id n) s = .refused .busy ∧
        exec .readAll s = .refused .busy))

/-- R171 to R174, R176: how a command ends: FINISH_IO on a failed transaction, otherwise FINISH with the
command's outcome; the strategy is removed and UBXC is idle. After session A of SEND_WAIT_ACK a failed
transceive goes there, and otherwise session B begins with MATCH_ACKNAK, whatever STOP or idle run session
A left. -/
def Obligations.CommandOutcomes : Prop :=
  ∀ (s : State) (k : CmdKind) (rest : List Cont), s.chunk = [] → s.todo = .finish k :: rest →
    (∀ e, s.ret = .failed e → step s = .next { s with
      todo := rest, intCb := .none, outcome := .ioError, ioCode := e, dphase := .idle }) ∧
    ((∀ e, s.ret ≠ .failed e) → ∃ o, step s = .next { s with
      todo := rest, intCb := .none, outcome := o, dphase := .idle } ∧
      (k = .noWait → o = .ok) ∧
      (k = .reply → s.matchResult = .replied → o = .ok) ∧
      (k = .reply → s.matchResult ≠ .replied → o = .timeout) ∧
      (k = .ack → s.matchResult = .acked → o = .ok) ∧
      (k = .ack → s.matchResult = .naked → o = .ackRejected) ∧
      (k = .ack → s.matchResult ≠ .acked → s.matchResult ≠ .naked → o = .timeout) ∧
      (k = .readAll → s.ret = .stopped → o = .ok) ∧
      (k = .readAll → s.ret ≠ .stopped → o = .timeout)) ∧
    ∀ u : State, u.chunk = [] → u.todo = .scanUnlessFailed :: rest →
      (∀ e, u.ret = .failed e → step u = .next { u with todo := rest }) ∧
      (u.ret = .done → step u = .next { u with
        todo := .run (.sessionBegin .matchAcknak) :: .run .sessionLoop :: rest })

/-- A transport that fails the first transaction ends every command that makes one with IO_ERROR and the
transport's own code (R203, R177: nothing is repeated); PB and the decoder's frame in progress are as
before. -/
def Obligations.TransportFailureEndsTheCommand : Prop :=
  ∀ (s : State) (id n e : Half) (sent : Nat) (rest : List TpAnswer) (i : Instr),
    s.inited = true → s.dphase = .idle → s.chunk = [] → n.toNat ≤ s.cap.toNat →
    s.cfg.valid = true → s.tp = .err e sent :: rest →
    i = .sendNoWait id n ∨ i = .sendWaitReply id n ∨ i = .sendWaitAck id n ∨ i = .readAll →
    ∃ (k : Nat) (t : State), runFrom (exec i s) k = .next t ∧
      t.dphase = .idle ∧ t.outcome = .ioError ∧ t.ioCode = e ∧ t.intCb = .none ∧
      t.matchResult = .none ∧ t.rxLen = 0 ∧ t.tp = rest ∧ t.todo = s.todo ∧ t.chunk = [] ∧
      samePB s t ∧
      sameRegsExcept [.idleRun, .intCb, .awaitId, .matchResult, .rxLen, .stopSeen, .outcome,
        .ioCode, .dphase, .txCkA, .txCkB] s t

/-- R89: POLL and POLL1 expand into SEND_WAIT_REPLY, POLL1 after the host's write of `PB[0]`. -/
def Obligations.PollExpansions : Prop :=
  ∀ (s : State) (id : Half) (b : Byte),
    exec (.poll id) s = exec (.sendWaitReply id 0) s ∧
    (s.inited = true → s.dphase = .idle →
      exec (.poll id) s = .next { s with
        matchResult := .none, rxLen := 0, awaitId := id, dphase := .txrx,
        todo := .run (.exchange id 0 .matchReply) :: .finish .reply :: s.todo } ∧
      (1 ≤ s.cap.toNat →
        exec (.poll1 id b) s = exec (.sendWaitReply id 1) { s with pb := Memory.set s.pb 0 b } ∧
        exec (.poll1 id b) s = .next { s with
          pb := Memory.set s.pb 0 b, matchResult := .none, rxLen := 0, awaitId := id,
          dphase := .txrx,
          todo := .run (.exchange id 1 .matchReply) :: .finish .reply :: s.todo }) ∧
      (s.cap.toNat < 1 → exec (.poll1 id b) s = .refused .hostOutsidePB))

/-- R190: POLL_MODIFY_SEND issues the poll; once it has completed, a non-OK outcome ends the idiom, an
unchanged record sends nothing, and a changed one is written in place, same length, and sent with
SEND_WAIT_ACK under the same id. A poll byte that does not fit PB is refused (assumption log 32). -/
def Obligations.PollModifySend : Prop :=
  ∀ (s : State) (id : Half) (e : Edit),
    (s.inited = true → s.dphase = .idle →
      exec (.pollModifySend id none e) s = .next { s with
        matchResult := .none, rxLen := 0, awaitId := id, dphase := .txrx,
        todo := .run (.exchange id 0 .matchReply) :: .finish .reply :: .compare id e ::
          s.todo } ∧
      ∀ b : Byte, 1 ≤ s.cap.toNat → exec (.pollModifySend id (some b) e) s = .next { s with
        pb := Memory.set s.pb 0 b, matchResult := .none, rxLen := 0, awaitId := id,
        dphase := .txrx,
        todo := .run (.exchange id 1 .matchReply) :: .finish .reply :: .compare id e ::
          s.todo }) ∧
    (s.inited = true → s.dphase = .idle → s.cap.toNat < 1 →
      ∀ b : Byte, exec (.pollModifySend id (some b) e) s = .refused .hostOutsidePB) ∧
    (∀ rest, s.chunk = [] → s.todo = .compare id e :: rest → s.dphase = .idle →
      (s.outcome ≠ .ok → step s = .next { s with todo := rest }) ∧
      (s.outcome = .ok → s.rxLen.toNat ≤ s.cap.toNat →
        (editDiffers e (s.pbBytes s.rxLen.toNat) = false →
          step s = .next { s with todo := rest }) ∧
        (editDiffers e (s.pbBytes s.rxLen.toNat) = true → ∃ t,
          step s = .next t ∧
          t.todo = .run (.sendWaitAck id s.rxLen) :: rest ∧
          t.pbBytes s.rxLen.toNat = editApply e (s.pbBytes s.rxLen.toNat) ∧
          samePBOutside 0 s.rxLen.toNat s t ∧ sameRegsExcept [] s t)))

/-! ### The machine -/

/-- A step runs the decoded instruction: a waiting byte through its decode word (with the STOP latch of
R163 around it), the operation at hand, or the host's command word or idiom (R89). With nothing to do the
machine stays as it is (R233). -/
def Obligations.StepRunsTheDecodedInstruction : Prop :=
  ∀ s : State,
    (∀ x rest i, s.chunk = x :: rest →
      decodeDec s.cfg s.decCtx (decodeWord s.state x) = .ok i →
      step s = mapNext (exec i { s with chunk := rest }) State.latchStop) ∧
    (∀ i rest, s.chunk = [] → s.todo = .run i :: rest →
      step s = exec i { s with todo := rest }) ∧
    (∀ w rest, s.chunk = [] → s.todo = [] → s.host = .cmd w :: rest →
      step s = exec (decodeCmd w) { s with host := rest }) ∧
    (∀ id rest, s.chunk = [] → s.todo = [] → s.host = .poll id :: rest →
      step s = exec (.poll id) { s with host := rest }) ∧
    (∀ id b rest, s.chunk = [] → s.todo = [] → s.host = .poll1 id b :: rest →
      step s = exec (.poll1 id b) { s with host := rest }) ∧
    (∀ id p e rest, s.chunk = [] → s.todo = [] → s.host = .pollModifySend id p e :: rest →
      step s = exec (.pollModifySend id p e) { s with host := rest }) ∧
    (s.chunk = [] → s.todo = [] → s.host = [] → step s = .next s)

/-- R45, R60, R234 item 3: the host's accesses to PB: only after INIT, while idle and inside PB; a write
changes that byte alone, and every register keeps its value. Any other access is refused by name, which is the
model's choice (assumption logs 16 and 36): before INIT PB has no defined size (R234), while busy the access has
no step (U6), and outside PB U7 says `fault`. -/
def Obligations.HostAccesses : Prop :=
  ∀ (s : State) (a : Half) (v : Byte) (rest : List HostAct),
    s.chunk = [] → s.todo = [] →
    (s.host = .pbWrite a v :: rest →
      (s.inited = true → s.dphase = .idle → a.toNat < s.cap.toNat → ∃ t, step s = .next t ∧
        t.pbByte a.toNat = v ∧ samePBOutside a.toNat 1 s t ∧ sameRegsExcept [] s t ∧
        t.host = rest) ∧
      (s.inited = true → s.dphase = .idle → s.cap.toNat ≤ a.toNat →
        step s = .refused .hostOutsidePB) ∧
      (s.inited = true → s.dphase ≠ .idle → step s = .refused .hostWhileBusy) ∧
      (s.inited = false → step s = .refused .notInitialised)) ∧
    (s.host = .pbRead a :: rest →
      (s.inited = true → s.dphase = .idle → a.toNat < s.cap.toNat →
        step s = .next { s with host := rest, pbPort := s.pbByte a.toNat }) ∧
      (s.inited = true → s.dphase = .idle → s.cap.toNat ≤ a.toNat →
        step s = .refused .hostOutsidePB) ∧
      (s.inited = true → s.dphase ≠ .idle → step s = .refused .hostWhileBusy) ∧
      (s.inited = false → step s = .refused .notInitialised))

/-- R44: power-on: not initialised and idle; and PB is canonical. The invariant holds there (the values of
the other registers are the model's choice, assumption log 1). -/
def Obligations.PowerOnMeetsInvariant : Prop :=
  State.reset.inited = false ∧ State.reset.dphase = .idle ∧ State.reset.Inv ∧ State.reset.SessionInv

/-- R43: every step keeps the invariant, from every state that meets it. -/
def Obligations.StepKeepsInvariant : Prop :=
  ∀ s t : State, s.Inv → step s = .next t → t.Inv

/-- R50 ("a model must make them unreachable"): from a state that meets the invariant no step reads or
writes PB outside its capacity; and what a step refuses is a command or an access of the host. -/
def Obligations.NoAccessOutsidePB : Prop :=
  ∀ s : State, s.Inv →
    step s ≠ .fault .pbOutOfRange ∧
    ∀ r, step s = .refused r →
      r = .notInitialised ∨ r = .reservedCommand ∨ r = .sendTooLong ∨ r = .hostOutsidePB

/-- R43 item 8: no step writes PB at or above the capacity. -/
def Obligations.PBAboveCapacityUntouched : Prop :=
  ∀ (s t : State), step s = .next t → ∀ a : Nat, s.cap.toNat ≤ a → t.pbByte a = s.pbByte a

/-- R232, R26, R29, R38: the configuration never changes; `cap`, `api_en` and `inited` change only by
INIT. -/
def Obligations.OnlyInitReconfigures : Prop :=
  ∀ s t : State, step s = .next t →
    t.cfg = s.cfg ∧
    (t.cap ≠ s.cap ∨ t.apiEn ≠ s.apiEn ∨ t.inited ≠ s.inited →
      ∃ api cap u, fetch s = .op (.init api cap) u)

/-- R34: `outcome` and `io_code` are written only when a command completes, and then UBXC is idle. -/
def Obligations.OutcomeOnlyAtCompletion : Prop :=
  ∀ s t : State, step s = .next t → t.outcome ≠ s.outcome ∨ t.ioCode ≠ s.ioCode →
    t.dphase = .idle ∧
      ((∃ k u, fetch s = .finish k u) ∨ ∃ api cap u, fetch s = .op (.init api cap) u)

/-- R179: from a state that meets the invariant, `dphase` changes only along the listed transitions, D_IDLE to
D_TXRX only when a command that sends is accepted (by itself or inside a host idiom, R89, R190). -/
def Obligations.PhaseTransitions : Prop :=
  ∀ s t : State, s.Inv → step s = .next t → t.dphase ≠ s.dphase →
    (s.dphase = .idle ∧ t.dphase = .txrx ∧ ∃ i u, fetch s = .op i u ∧
      ((∃ id n, i = .sendNoWait id n) ∨ (∃ id n, i = .sendWaitReply id n) ∨
        (∃ id n, i = .sendWaitAck id n) ∨ (∃ id, i = .poll id) ∨ (∃ id b, i = .poll1 id b) ∨
        ∃ id p e, i = .pollModifySend id p e)) ∨
    (s.dphase = .idle ∧ t.dphase = .scan ∧ ∃ u, fetch s = .op .readAll u) ∨
    (s.dphase = .txrx ∧ t.dphase = .scan ∧ ∃ u, fetch s = .op .readChunk u) ∨
    (s.dphase ≠ .idle ∧ t.dphase = .idle ∧ ∃ k u, fetch s = .finish k u)

/-- R167 item 1: a session that times out leaves the decoder in SYNC1 with no partial frame. -/
def Obligations.TimeoutLeavesNoPartialFrame : Prop :=
  ∀ s t : State, s.Inv → step s = .next t → t.ret = .timedOut → s.ret ≠ .timedOut → t.decClean

/-! ### Whole commands -/

/-- R167 item 3: READ_ALL on a quiet link that does not fail ends in TIMEOUT after exactly as many reads
as reach the idle bound, for every bound and chunk length; PB and the API consumer are not touched. -/
def Obligations.QuietReadAllTimesOut : Prop :=
  ∀ (s : State) (more : List TpAnswer),
    s.cfg.valid = true → s.inited = true → s.dphase = .idle → s.chunk = [] → s.state = .sync1 →
    s.rx = [] → s.rxTail = .quiet →
    let reads := (s.cfg.idleBound + s.cfg.chunkLen - 1) / s.cfg.chunkLen
    s.tp = List.replicate reads .ok ++ more →
    ∃ (k : Nat) (t : State), runFrom (exec .readAll s) k = .next t ∧
      t.outcome = .timeout ∧ t.dphase = .idle ∧ t.tp = more ∧ t.todo = s.todo ∧
      t.trace = List.replicate reads (.read s.cfg.chunkLen true) ++ s.trace ∧
      t.state = .sync1 ∧ t.tx = s.tx ∧ samePB s t ∧ t.api = s.api

/-- R172: SEND_WAIT_REPLY when the reply's frame arrives whole in the first read, idle fill around it:
OK, `rx_len` its length, PB its payload. The events are one transceive, one read and the reply's accept: the
consumer is not asked. -/
def Obligations.ReplyCompletesThePoll : Prop :=
  ∀ (s : State) (id n m : Half) (payload : List Byte) (before after : Nat)
    (more : List Byte) (rest : List TpAnswer),
    s.cfg.valid = true → s.inited = true → s.dphase = .idle → s.chunk = [] → s.decClean →
    n.toNat ≤ s.cap.toNat → payload.length = m.toNat → m.toNat ≤ s.cap.toNat →
    n.toNat + 8 < s.cfg.idleBound →
    s.cfg.chunkLen = before + (m.toNat + 8) + after →
    s.rx = List.replicate (n.toNat + 8 + before) s.cfg.idle ++ frameBytes s.cfg id m payload ++
      List.replicate after s.cfg.idle ++ more →
    s.tp = .ok :: .ok :: rest →
    ∃ (k : Nat) (t : State), runFrom (exec (.sendWaitReply id n) s) k = .next t ∧
      t.outcome = .ok ∧ t.rxLen = m ∧ t.matchResult = .replied ∧ t.dphase = .idle ∧
      t.intCb = .none ∧ t.stopSeen = true ∧ t.pbBytes m.toNat = payload ∧ t.decClean ∧
      t.tx = s.tx ++ frameBytes s.cfg id n (s.pbBytes n.toNat) ∧ t.rx = more ∧ t.tp = rest ∧
      t.todo = s.todo ∧ t.api = s.api ∧
      t.trace = .accepted id m :: .read s.cfg.chunkLen true :: .transceive (n.toNat + 8) true ::
        s.trace

/-- R173 (the source's ACK/NAK property): SEND_WAIT_ACK when an acknowledging frame that names the sent id, in
the layout of the configuration (R84), arrives whole in the first read of session B: ACK gives OK, NAK gives
ACK_REJECTED; `rx_len` stays 0. The events are one transceive, one read and that frame's accept: the consumer
is not asked. -/
def Obligations.AckOrNakDecidesTheSend : Prop :=
  ∀ (s : State) (n m : Half) (c i : Byte) (payload : List Byte) (isAck : Bool) (before after : Nat)
    (more : List Byte) (rest : List TpAnswer),
    s.cfg.valid = true → s.inited = true → s.dphase = .idle → s.chunk = [] → s.decClean →
    n.toNat ≤ s.cap.toNat → payload.length = m.toNat → m.toNat ≤ s.cap.toNat →
    payload[s.cfg.ackClassAt]? = some c → payload[s.cfg.ackIdAt]? = some i →
    let ackId : Half := if isAck then s.cfg.ackAckId else s.cfg.ackNakId
    s.cfg.chunkLen = before + (m.toNat + 8) + after →
    s.rx = List.replicate (n.toNat + 8 + before) s.cfg.idle ++ frameBytes s.cfg ackId m payload ++
      List.replicate after s.cfg.idle ++ more →
    s.tp = .ok :: .ok :: rest →
    ∃ (k : Nat) (t : State), runFrom (exec (.sendWaitAck (c ++ i) n) s) k = .next t ∧
      t.outcome = (if isAck then .ok else .ackRejected) ∧
      t.matchResult = (if isAck then .acked else .naked) ∧ t.rxLen = 0 ∧ t.dphase = .idle ∧
      t.intCb = .none ∧ t.tx = s.tx ++ frameBytes s.cfg (c ++ i) n (s.pbBytes n.toNat) ∧
      t.rx = more ∧ t.tp = rest ∧ t.todo = s.todo ∧ t.api = s.api ∧
      t.trace = .accepted ackId m :: .read s.cfg.chunkLen true :: .transceive (n.toNat + 8) true ::
        s.trace

/-- R178: a command in progress is never cut off. From every state that meets the invariants, whatever the
step: a command ends only at its own completion, which is reached only when its session ended, by a failed
transaction or by R166's test, and that test still holds; a scan ends in no other way; and the session's result
becomes STOPPED or TIMED_OUT only in SESSION_LOOP, by R166's tests, and FAILED(e) only by a transaction that
the transport answers with Err(e). The second invariant is kept, so this holds at every step of a run. -/
def Obligations.CommandEndsOnlyBySessionEnd : Prop :=
  ∀ s t : State, s.Inv → s.SessionInv → step s = .next t →
    t.SessionInv ∧
    (s.dphase ≠ .idle → t.dphase = .idle →
      (∃ k u, fetch s = .finish k u) ∧
      ((s.ret = .stopped ∧ s.stopSeen = true) ∨
        (s.ret = .timedOut ∧ s.stopSeen = false ∧ s.cfg.idleBound ≤ s.idleRun.toNat) ∨
        ∃ e, s.ret = .failed e)) ∧
    (s.dphase = .scan → t.dphase ≠ .scan → t.dphase = .idle) ∧
    (t.ret = .stopped → s.ret ≠ .stopped → s.stopSeen = true ∧
      ∃ u, fetch s = .op .sessionLoop u ∨ fetch s = .loop u) ∧
    (t.ret = .timedOut → s.ret ≠ .timedOut →
      s.stopSeen = false ∧ s.cfg.idleBound ≤ s.idleRun.toNat ∧
      ∃ u, fetch s = .op .sessionLoop u ∨ fetch s = .loop u) ∧
    (∀ e, t.ret = .failed e → s.ret ≠ .failed e → ∃ sent, s.nextTp = .err e sent)

/-- R178, U13: no number of steps bounds a session: for every configuration and every number of steps there is
a READ_ALL about to make its end-of-chunk test, no byte waiting, whose session (on a stream of noise, say) is
still in progress after them. The state depends on the number, because a script of the transport is finite and
nothing can be proved of its answers past it. -/
def Obligations.ScanOfAnyLengthExists : Prop :=
  ∀ (p : Params) (k : Nat), p.valid = true →
    ∃ s t : State, s.cfg = p ∧ s.Inv ∧ s.SessionInv ∧ s.dphase = .scan ∧ s.chunk = [] ∧
      s.todo = [.run .sessionLoop, .finish .readAll] ∧ runSteps k s = .next t ∧
      t.dphase = .scan ∧ t.Inv

/-- R201: a framing error is silent: RESET_DEC and PARSING are all of it; no dispatcher register, no byte of
PB, no port and no consumer sees it. -/
def Obligations.RejectedFramesAreSilent : Prop :=
  ∀ (s t : State) (x : Byte) (e : TraceEvent), exec (.feed x) s = .next t →
    t.trace = e :: s.trace → e = .feSync2 ∨ e = .feOverrun ∨ e = .feCkA ∨ e = .feCkB →
    t.feedRes = .parsing ∧ t.decClean ∧ t.idleRun = 0 ∧ samePB s t ∧
    sameRegsExcept [.state, .ckA, .ckB, .msgId, .len, .cnt, .idleRun] s t ∧
    sameTransport s t ∧ sameControl s t ∧ sameApi s t
end

