-- ==== Sys2Proof/Laws/State.lean ====
section
/-!
SUPPORT. One lemma per field per named update of State, true by rfl: what the update writes and that it
leaves every other field alone. Then the update that is a choice (latchStop) and the one that names a pair.
-/

namespace Sys2Proof.Machine

@[simp] theorem State.record_cfg (s : State) (e : TraceEvent) : (s.record e).cfg = s.cfg := rfl
@[simp] theorem State.record_state (s : State) (e : TraceEvent) : (s.record e).state = s.state := rfl
@[simp] theorem State.record_ckA (s : State) (e : TraceEvent) : (s.record e).ckA = s.ckA := rfl
@[simp] theorem State.record_ckB (s : State) (e : TraceEvent) : (s.record e).ckB = s.ckB := rfl
@[simp] theorem State.record_msgId (s : State) (e : TraceEvent) : (s.record e).msgId = s.msgId := rfl
@[simp] theorem State.record_len (s : State) (e : TraceEvent) : (s.record e).len = s.len := rfl
@[simp] theorem State.record_cnt (s : State) (e : TraceEvent) : (s.record e).cnt = s.cnt := rfl
@[simp] theorem State.record_cap (s : State) (e : TraceEvent) : (s.record e).cap = s.cap := rfl
@[simp] theorem State.record_idleRun (s : State) (e : TraceEvent) : (s.record e).idleRun = s.idleRun := rfl
@[simp] theorem State.record_intCb (s : State) (e : TraceEvent) : (s.record e).intCb = s.intCb := rfl
@[simp] theorem State.record_apiEn (s : State) (e : TraceEvent) : (s.record e).apiEn = s.apiEn := rfl
@[simp] theorem State.record_awaitId (s : State) (e : TraceEvent) : (s.record e).awaitId = s.awaitId := rfl
@[simp] theorem State.record_matchResult (s : State) (e : TraceEvent) : (s.record e).matchResult = s.matchResult := rfl
@[simp] theorem State.record_rxLen (s : State) (e : TraceEvent) : (s.record e).rxLen = s.rxLen := rfl
@[simp] theorem State.record_stopSeen (s : State) (e : TraceEvent) : (s.record e).stopSeen = s.stopSeen := rfl
@[simp] theorem State.record_outcome (s : State) (e : TraceEvent) : (s.record e).outcome = s.outcome := rfl
@[simp] theorem State.record_ioCode (s : State) (e : TraceEvent) : (s.record e).ioCode = s.ioCode := rfl
@[simp] theorem State.record_dphase (s : State) (e : TraceEvent) : (s.record e).dphase = s.dphase := rfl
@[simp] theorem State.record_txCkA (s : State) (e : TraceEvent) : (s.record e).txCkA = s.txCkA := rfl
@[simp] theorem State.record_txCkB (s : State) (e : TraceEvent) : (s.record e).txCkB = s.txCkB := rfl
@[simp] theorem State.record_inited (s : State) (e : TraceEvent) : (s.record e).inited = s.inited := rfl
@[simp] theorem State.record_pb (s : State) (e : TraceEvent) : (s.record e).pb = s.pb := rfl
@[simp] theorem State.record_tx (s : State) (e : TraceEvent) : (s.record e).tx = s.tx := rfl
@[simp] theorem State.record_rx (s : State) (e : TraceEvent) : (s.record e).rx = s.rx := rfl
@[simp] theorem State.record_rxTail (s : State) (e : TraceEvent) : (s.record e).rxTail = s.rxTail := rfl
@[simp] theorem State.record_tp (s : State) (e : TraceEvent) : (s.record e).tp = s.tp := rfl
@[simp] theorem State.record_api (s : State) (e : TraceEvent) : (s.record e).api = s.api := rfl
@[simp] theorem State.record_host (s : State) (e : TraceEvent) : (s.record e).host = s.host := rfl
@[simp] theorem State.record_chunk (s : State) (e : TraceEvent) : (s.record e).chunk = s.chunk := rfl
@[simp] theorem State.record_todo (s : State) (e : TraceEvent) : (s.record e).todo = s.todo := rfl
@[simp] theorem State.record_feedRes (s : State) (e : TraceEvent) : (s.record e).feedRes = s.feedRes := rfl
@[simp] theorem State.record_ret (s : State) (e : TraceEvent) : (s.record e).ret = s.ret := rfl
@[simp] theorem State.record_txFrame (s : State) (e : TraceEvent) : (s.record e).txFrame = s.txFrame := rfl
@[simp] theorem State.record_pbPort (s : State) (e : TraceEvent) : (s.record e).pbPort = s.pbPort := rfl
@[simp] theorem State.record_trace (s : State) (e : TraceEvent) : (s.record e).trace = e :: s.trace := rfl
@[simp] theorem State.record_fresh (s : State) (e : TraceEvent) : (s.record e).fresh = s.fresh := rfl

@[simp] theorem State.setResult_cfg (s : State) (r : FeedResult) : (s.setResult r).cfg = s.cfg := rfl
@[simp] theorem State.setResult_state (s : State) (r : FeedResult) : (s.setResult r).state = s.state := rfl
@[simp] theorem State.setResult_ckA (s : State) (r : FeedResult) : (s.setResult r).ckA = s.ckA := rfl
@[simp] theorem State.setResult_ckB (s : State) (r : FeedResult) : (s.setResult r).ckB = s.ckB := rfl
@[simp] theorem State.setResult_msgId (s : State) (r : FeedResult) : (s.setResult r).msgId = s.msgId := rfl
@[simp] theorem State.setResult_len (s : State) (r : FeedResult) : (s.setResult r).len = s.len := rfl
@[simp] theorem State.setResult_cnt (s : State) (r : FeedResult) : (s.setResult r).cnt = s.cnt := rfl
@[simp] theorem State.setResult_cap (s : State) (r : FeedResult) : (s.setResult r).cap = s.cap := rfl
@[simp] theorem State.setResult_idleRun (s : State) (r : FeedResult) : (s.setResult r).idleRun = s.idleRun := rfl
@[simp] theorem State.setResult_intCb (s : State) (r : FeedResult) : (s.setResult r).intCb = s.intCb := rfl
@[simp] theorem State.setResult_apiEn (s : State) (r : FeedResult) : (s.setResult r).apiEn = s.apiEn := rfl
@[simp] theorem State.setResult_awaitId (s : State) (r : FeedResult) : (s.setResult r).awaitId = s.awaitId := rfl
@[simp] theorem State.setResult_matchResult (s : State) (r : FeedResult) : (s.setResult r).matchResult = s.matchResult := rfl
@[simp] theorem State.setResult_rxLen (s : State) (r : FeedResult) : (s.setResult r).rxLen = s.rxLen := rfl
@[simp] theorem State.setResult_stopSeen (s : State) (r : FeedResult) : (s.setResult r).stopSeen = s.stopSeen := rfl
@[simp] theorem State.setResult_outcome (s : State) (r : FeedResult) : (s.setResult r).outcome = s.outcome := rfl
@[simp] theorem State.setResult_ioCode (s : State) (r : FeedResult) : (s.setResult r).ioCode = s.ioCode := rfl
@[simp] theorem State.setResult_dphase (s : State) (r : FeedResult) : (s.setResult r).dphase = s.dphase := rfl
@[simp] theorem State.setResult_txCkA (s : State) (r : FeedResult) : (s.setResult r).txCkA = s.txCkA := rfl
@[simp] theorem State.setResult_txCkB (s : State) (r : FeedResult) : (s.setResult r).txCkB = s.txCkB := rfl
@[simp] theorem State.setResult_inited (s : State) (r : FeedResult) : (s.setResult r).inited = s.inited := rfl
@[simp] theorem State.setResult_pb (s : State) (r : FeedResult) : (s.setResult r).pb = s.pb := rfl
@[simp] theorem State.setResult_tx (s : State) (r : FeedResult) : (s.setResult r).tx = s.tx := rfl
@[simp] theorem State.setResult_rx (s : State) (r : FeedResult) : (s.setResult r).rx = s.rx := rfl
@[simp] theorem State.setResult_rxTail (s : State) (r : FeedResult) : (s.setResult r).rxTail = s.rxTail := rfl
@[simp] theorem State.setResult_tp (s : State) (r : FeedResult) : (s.setResult r).tp = s.tp := rfl
@[simp] theorem State.setResult_api (s : State) (r : FeedResult) : (s.setResult r).api = s.api := rfl
@[simp] theorem State.setResult_host (s : State) (r : FeedResult) : (s.setResult r).host = s.host := rfl
@[simp] theorem State.setResult_chunk (s : State) (r : FeedResult) : (s.setResult r).chunk = s.chunk := rfl
@[simp] theorem State.setResult_todo (s : State) (r : FeedResult) : (s.setResult r).todo = s.todo := rfl
@[simp] theorem State.setResult_feedRes (s : State) (r : FeedResult) : (s.setResult r).feedRes = r := rfl
@[simp] theorem State.setResult_ret (s : State) (r : FeedResult) : (s.setResult r).ret = s.ret := rfl
@[simp] theorem State.setResult_txFrame (s : State) (r : FeedResult) : (s.setResult r).txFrame = s.txFrame := rfl
@[simp] theorem State.setResult_pbPort (s : State) (r : FeedResult) : (s.setResult r).pbPort = s.pbPort := rfl
@[simp] theorem State.setResult_trace (s : State) (r : FeedResult) : (s.setResult r).trace = s.trace := rfl
@[simp] theorem State.setResult_fresh (s : State) (r : FeedResult) : (s.setResult r).fresh = s.fresh := rfl

@[simp] theorem State.foldByte_cfg (s : State) (x : Byte) : (s.foldByte x).cfg = s.cfg := rfl
@[simp] theorem State.foldByte_state (s : State) (x : Byte) : (s.foldByte x).state = s.state := rfl
@[simp] theorem State.foldByte_ckA (s : State) (x : Byte) : (s.foldByte x).ckA = s.ckA + x := rfl
@[simp] theorem State.foldByte_ckB (s : State) (x : Byte) : (s.foldByte x).ckB = s.ckB + (s.ckA + x) := rfl
@[simp] theorem State.foldByte_msgId (s : State) (x : Byte) : (s.foldByte x).msgId = s.msgId := rfl
@[simp] theorem State.foldByte_len (s : State) (x : Byte) : (s.foldByte x).len = s.len := rfl
@[simp] theorem State.foldByte_cnt (s : State) (x : Byte) : (s.foldByte x).cnt = s.cnt := rfl
@[simp] theorem State.foldByte_cap (s : State) (x : Byte) : (s.foldByte x).cap = s.cap := rfl
@[simp] theorem State.foldByte_idleRun (s : State) (x : Byte) : (s.foldByte x).idleRun = s.idleRun := rfl
@[simp] theorem State.foldByte_intCb (s : State) (x : Byte) : (s.foldByte x).intCb = s.intCb := rfl
@[simp] theorem State.foldByte_apiEn (s : State) (x : Byte) : (s.foldByte x).apiEn = s.apiEn := rfl
@[simp] theorem State.foldByte_awaitId (s : State) (x : Byte) : (s.foldByte x).awaitId = s.awaitId := rfl
@[simp] theorem State.foldByte_matchResult (s : State) (x : Byte) : (s.foldByte x).matchResult = s.matchResult := rfl
@[simp] theorem State.foldByte_rxLen (s : State) (x : Byte) : (s.foldByte x).rxLen = s.rxLen := rfl
@[simp] theorem State.foldByte_stopSeen (s : State) (x : Byte) : (s.foldByte x).stopSeen = s.stopSeen := rfl
@[simp] theorem State.foldByte_outcome (s : State) (x : Byte) : (s.foldByte x).outcome = s.outcome := rfl
@[simp] theorem State.foldByte_ioCode (s : State) (x : Byte) : (s.foldByte x).ioCode = s.ioCode := rfl
@[simp] theorem State.foldByte_dphase (s : State) (x : Byte) : (s.foldByte x).dphase = s.dphase := rfl
@[simp] theorem State.foldByte_txCkA (s : State) (x : Byte) : (s.foldByte x).txCkA = s.txCkA := rfl
@[simp] theorem State.foldByte_txCkB (s : State) (x : Byte) : (s.foldByte x).txCkB = s.txCkB := rfl
@[simp] theorem State.foldByte_inited (s : State) (x : Byte) : (s.foldByte x).inited = s.inited := rfl
@[simp] theorem State.foldByte_pb (s : State) (x : Byte) : (s.foldByte x).pb = s.pb := rfl
@[simp] theorem State.foldByte_tx (s : State) (x : Byte) : (s.foldByte x).tx = s.tx := rfl
@[simp] theorem State.foldByte_rx (s : State) (x : Byte) : (s.foldByte x).rx = s.rx := rfl
@[simp] theorem State.foldByte_rxTail (s : State) (x : Byte) : (s.foldByte x).rxTail = s.rxTail := rfl
@[simp] theorem State.foldByte_tp (s : State) (x : Byte) : (s.foldByte x).tp = s.tp := rfl
@[simp] theorem State.foldByte_api (s : State) (x : Byte) : (s.foldByte x).api = s.api := rfl
@[simp] theorem State.foldByte_host (s : State) (x : Byte) : (s.foldByte x).host = s.host := rfl
@[simp] theorem State.foldByte_chunk (s : State) (x : Byte) : (s.foldByte x).chunk = s.chunk := rfl
@[simp] theorem State.foldByte_todo (s : State) (x : Byte) : (s.foldByte x).todo = s.todo := rfl
@[simp] theorem State.foldByte_feedRes (s : State) (x : Byte) : (s.foldByte x).feedRes = s.feedRes := rfl
@[simp] theorem State.foldByte_ret (s : State) (x : Byte) : (s.foldByte x).ret = s.ret := rfl
@[simp] theorem State.foldByte_txFrame (s : State) (x : Byte) : (s.foldByte x).txFrame = s.txFrame := rfl
@[simp] theorem State.foldByte_pbPort (s : State) (x : Byte) : (s.foldByte x).pbPort = s.pbPort := rfl
@[simp] theorem State.foldByte_trace (s : State) (x : Byte) : (s.foldByte x).trace = s.trace := rfl
@[simp] theorem State.foldByte_fresh (s : State) (x : Byte) : (s.foldByte x).fresh = s.fresh := rfl

@[simp] theorem State.clearDec_cfg (s : State) : (s.clearDec).cfg = s.cfg := rfl
@[simp] theorem State.clearDec_state (s : State) : (s.clearDec).state = .sync1 := rfl
@[simp] theorem State.clearDec_ckA (s : State) : (s.clearDec).ckA = 0 := rfl
@[simp] theorem State.clearDec_ckB (s : State) : (s.clearDec).ckB = 0 := rfl
@[simp] theorem State.clearDec_msgId (s : State) : (s.clearDec).msgId = 0 := rfl
@[simp] theorem State.clearDec_len (s : State) : (s.clearDec).len = 0 := rfl
@[simp] theorem State.clearDec_cnt (s : State) : (s.clearDec).cnt = 0 := rfl
@[simp] theorem State.clearDec_cap (s : State) : (s.clearDec).cap = s.cap := rfl
@[simp] theorem State.clearDec_idleRun (s : State) : (s.clearDec).idleRun = 0 := rfl
@[simp] theorem State.clearDec_intCb (s : State) : (s.clearDec).intCb = s.intCb := rfl
@[simp] theorem State.clearDec_apiEn (s : State) : (s.clearDec).apiEn = s.apiEn := rfl
@[simp] theorem State.clearDec_awaitId (s : State) : (s.clearDec).awaitId = s.awaitId := rfl
@[simp] theorem State.clearDec_matchResult (s : State) : (s.clearDec).matchResult = s.matchResult := rfl
@[simp] theorem State.clearDec_rxLen (s : State) : (s.clearDec).rxLen = s.rxLen := rfl
@[simp] theorem State.clearDec_stopSeen (s : State) : (s.clearDec).stopSeen = s.stopSeen := rfl
@[simp] theorem State.clearDec_outcome (s : State) : (s.clearDec).outcome = s.outcome := rfl
@[simp] theorem State.clearDec_ioCode (s : State) : (s.clearDec).ioCode = s.ioCode := rfl
@[simp] theorem State.clearDec_dphase (s : State) : (s.clearDec).dphase = s.dphase := rfl
@[simp] theorem State.clearDec_txCkA (s : State) : (s.clearDec).txCkA = s.txCkA := rfl
@[simp] theorem State.clearDec_txCkB (s : State) : (s.clearDec).txCkB = s.txCkB := rfl
@[simp] theorem State.clearDec_inited (s : State) : (s.clearDec).inited = s.inited := rfl
@[simp] theorem State.clearDec_pb (s : State) : (s.clearDec).pb = s.pb := rfl
@[simp] theorem State.clearDec_tx (s : State) : (s.clearDec).tx = s.tx := rfl
@[simp] theorem State.clearDec_rx (s : State) : (s.clearDec).rx = s.rx := rfl
@[simp] theorem State.clearDec_rxTail (s : State) : (s.clearDec).rxTail = s.rxTail := rfl
@[simp] theorem State.clearDec_tp (s : State) : (s.clearDec).tp = s.tp := rfl
@[simp] theorem State.clearDec_api (s : State) : (s.clearDec).api = s.api := rfl
@[simp] theorem State.clearDec_host (s : State) : (s.clearDec).host = s.host := rfl
@[simp] theorem State.clearDec_chunk (s : State) : (s.clearDec).chunk = s.chunk := rfl
@[simp] theorem State.clearDec_todo (s : State) : (s.clearDec).todo = s.todo := rfl
@[simp] theorem State.clearDec_feedRes (s : State) : (s.clearDec).feedRes = s.feedRes := rfl
@[simp] theorem State.clearDec_ret (s : State) : (s.clearDec).ret = s.ret := rfl
@[simp] theorem State.clearDec_txFrame (s : State) : (s.clearDec).txFrame = s.txFrame := rfl
@[simp] theorem State.clearDec_pbPort (s : State) : (s.clearDec).pbPort = s.pbPort := rfl
@[simp] theorem State.clearDec_trace (s : State) : (s.clearDec).trace = s.trace := rfl
@[simp] theorem State.clearDec_fresh (s : State) : (s.clearDec).fresh = s.fresh := rfl

@[simp] theorem State.delivered_cfg (s : State) (id n : Half) : (s.delivered id n).cfg = s.cfg := rfl
@[simp] theorem State.delivered_state (s : State) (id n : Half) : (s.delivered id n).state = s.state := rfl
@[simp] theorem State.delivered_ckA (s : State) (id n : Half) : (s.delivered id n).ckA = s.ckA := rfl
@[simp] theorem State.delivered_ckB (s : State) (id n : Half) : (s.delivered id n).ckB = s.ckB := rfl
@[simp] theorem State.delivered_msgId (s : State) (id n : Half) : (s.delivered id n).msgId = s.msgId := rfl
@[simp] theorem State.delivered_len (s : State) (id n : Half) : (s.delivered id n).len = s.len := rfl
@[simp] theorem State.delivered_cnt (s : State) (id n : Half) : (s.delivered id n).cnt = s.cnt := rfl
@[simp] theorem State.delivered_cap (s : State) (id n : Half) : (s.delivered id n).cap = s.cap := rfl
@[simp] theorem State.delivered_idleRun (s : State) (id n : Half) : (s.delivered id n).idleRun = s.idleRun := rfl
@[simp] theorem State.delivered_intCb (s : State) (id n : Half) : (s.delivered id n).intCb = s.intCb := rfl
@[simp] theorem State.delivered_apiEn (s : State) (id n : Half) : (s.delivered id n).apiEn = s.apiEn := rfl
@[simp] theorem State.delivered_awaitId (s : State) (id n : Half) : (s.delivered id n).awaitId = s.awaitId := rfl
@[simp] theorem State.delivered_matchResult (s : State) (id n : Half) : (s.delivered id n).matchResult = s.matchResult := rfl
@[simp] theorem State.delivered_rxLen (s : State) (id n : Half) : (s.delivered id n).rxLen = s.rxLen := rfl
@[simp] theorem State.delivered_stopSeen (s : State) (id n : Half) : (s.delivered id n).stopSeen = s.stopSeen := rfl
@[simp] theorem State.delivered_outcome (s : State) (id n : Half) : (s.delivered id n).outcome = s.outcome := rfl
@[simp] theorem State.delivered_ioCode (s : State) (id n : Half) : (s.delivered id n).ioCode = s.ioCode := rfl
@[simp] theorem State.delivered_dphase (s : State) (id n : Half) : (s.delivered id n).dphase = s.dphase := rfl
@[simp] theorem State.delivered_txCkA (s : State) (id n : Half) : (s.delivered id n).txCkA = s.txCkA := rfl
@[simp] theorem State.delivered_txCkB (s : State) (id n : Half) : (s.delivered id n).txCkB = s.txCkB := rfl
@[simp] theorem State.delivered_inited (s : State) (id n : Half) : (s.delivered id n).inited = s.inited := rfl
@[simp] theorem State.delivered_pb (s : State) (id n : Half) : (s.delivered id n).pb = s.pb := rfl
@[simp] theorem State.delivered_tx (s : State) (id n : Half) : (s.delivered id n).tx = s.tx := rfl
@[simp] theorem State.delivered_rx (s : State) (id n : Half) : (s.delivered id n).rx = s.rx := rfl
@[simp] theorem State.delivered_rxTail (s : State) (id n : Half) : (s.delivered id n).rxTail = s.rxTail := rfl
@[simp] theorem State.delivered_tp (s : State) (id n : Half) : (s.delivered id n).tp = s.tp := rfl
@[simp] theorem State.delivered_api (s : State) (id n : Half) : (s.delivered id n).api = s.api.tail := rfl
@[simp] theorem State.delivered_host (s : State) (id n : Half) : (s.delivered id n).host = s.host := rfl
@[simp] theorem State.delivered_chunk (s : State) (id n : Half) : (s.delivered id n).chunk = s.chunk := rfl
@[simp] theorem State.delivered_todo (s : State) (id n : Half) : (s.delivered id n).todo = s.todo := rfl
@[simp] theorem State.delivered_feedRes (s : State) (id n : Half) : (s.delivered id n).feedRes = s.feedRes := rfl
@[simp] theorem State.delivered_ret (s : State) (id n : Half) : (s.delivered id n).ret = s.ret := rfl
@[simp] theorem State.delivered_txFrame (s : State) (id n : Half) : (s.delivered id n).txFrame = s.txFrame := rfl
@[simp] theorem State.delivered_pbPort (s : State) (id n : Half) : (s.delivered id n).pbPort = s.pbPort := rfl
@[simp] theorem State.delivered_trace (s : State) (id n : Half) : (s.delivered id n).trace = .delivered id n :: s.trace := rfl
@[simp] theorem State.delivered_fresh (s : State) (id n : Half) : (s.delivered id n).fresh = s.fresh + 1 := rfl

@[simp] theorem State.tpTaken_cfg (s : State) : (s.tpTaken).cfg = s.cfg := rfl
@[simp] theorem State.tpTaken_state (s : State) : (s.tpTaken).state = s.state := rfl
@[simp] theorem State.tpTaken_ckA (s : State) : (s.tpTaken).ckA = s.ckA := rfl
@[simp] theorem State.tpTaken_ckB (s : State) : (s.tpTaken).ckB = s.ckB := rfl
@[simp] theorem State.tpTaken_msgId (s : State) : (s.tpTaken).msgId = s.msgId := rfl
@[simp] theorem State.tpTaken_len (s : State) : (s.tpTaken).len = s.len := rfl
@[simp] theorem State.tpTaken_cnt (s : State) : (s.tpTaken).cnt = s.cnt := rfl
@[simp] theorem State.tpTaken_cap (s : State) : (s.tpTaken).cap = s.cap := rfl
@[simp] theorem State.tpTaken_idleRun (s : State) : (s.tpTaken).idleRun = s.idleRun := rfl
@[simp] theorem State.tpTaken_intCb (s : State) : (s.tpTaken).intCb = s.intCb := rfl
@[simp] theorem State.tpTaken_apiEn (s : State) : (s.tpTaken).apiEn = s.apiEn := rfl
@[simp] theorem State.tpTaken_awaitId (s : State) : (s.tpTaken).awaitId = s.awaitId := rfl
@[simp] theorem State.tpTaken_matchResult (s : State) : (s.tpTaken).matchResult = s.matchResult := rfl
@[simp] theorem State.tpTaken_rxLen (s : State) : (s.tpTaken).rxLen = s.rxLen := rfl
@[simp] theorem State.tpTaken_stopSeen (s : State) : (s.tpTaken).stopSeen = s.stopSeen := rfl
@[simp] theorem State.tpTaken_outcome (s : State) : (s.tpTaken).outcome = s.outcome := rfl
@[simp] theorem State.tpTaken_ioCode (s : State) : (s.tpTaken).ioCode = s.ioCode := rfl
@[simp] theorem State.tpTaken_dphase (s : State) : (s.tpTaken).dphase = s.dphase := rfl
@[simp] theorem State.tpTaken_txCkA (s : State) : (s.tpTaken).txCkA = s.txCkA := rfl
@[simp] theorem State.tpTaken_txCkB (s : State) : (s.tpTaken).txCkB = s.txCkB := rfl
@[simp] theorem State.tpTaken_inited (s : State) : (s.tpTaken).inited = s.inited := rfl
@[simp] theorem State.tpTaken_pb (s : State) : (s.tpTaken).pb = s.pb := rfl
@[simp] theorem State.tpTaken_tx (s : State) : (s.tpTaken).tx = s.tx := rfl
@[simp] theorem State.tpTaken_rx (s : State) : (s.tpTaken).rx = s.rx := rfl
@[simp] theorem State.tpTaken_rxTail (s : State) : (s.tpTaken).rxTail = s.rxTail := rfl
@[simp] theorem State.tpTaken_tp (s : State) : (s.tpTaken).tp = s.tp.tail := rfl
@[simp] theorem State.tpTaken_api (s : State) : (s.tpTaken).api = s.api := rfl
@[simp] theorem State.tpTaken_host (s : State) : (s.tpTaken).host = s.host := rfl
@[simp] theorem State.tpTaken_chunk (s : State) : (s.tpTaken).chunk = s.chunk := rfl
@[simp] theorem State.tpTaken_todo (s : State) : (s.tpTaken).todo = s.todo := rfl
@[simp] theorem State.tpTaken_feedRes (s : State) : (s.tpTaken).feedRes = s.feedRes := rfl
@[simp] theorem State.tpTaken_ret (s : State) : (s.tpTaken).ret = s.ret := rfl
@[simp] theorem State.tpTaken_txFrame (s : State) : (s.tpTaken).txFrame = s.txFrame := rfl
@[simp] theorem State.tpTaken_pbPort (s : State) : (s.tpTaken).pbPort = s.pbPort := rfl
@[simp] theorem State.tpTaken_trace (s : State) : (s.tpTaken).trace = s.trace := rfl
@[simp] theorem State.tpTaken_fresh (s : State) : (s.tpTaken).fresh = s.fresh + 1 := rfl

@[simp] theorem State.push_cfg (s : State) (cs : List Cont) : (s.push cs).cfg = s.cfg := rfl
@[simp] theorem State.push_state (s : State) (cs : List Cont) : (s.push cs).state = s.state := rfl
@[simp] theorem State.push_ckA (s : State) (cs : List Cont) : (s.push cs).ckA = s.ckA := rfl
@[simp] theorem State.push_ckB (s : State) (cs : List Cont) : (s.push cs).ckB = s.ckB := rfl
@[simp] theorem State.push_msgId (s : State) (cs : List Cont) : (s.push cs).msgId = s.msgId := rfl
@[simp] theorem State.push_len (s : State) (cs : List Cont) : (s.push cs).len = s.len := rfl
@[simp] theorem State.push_cnt (s : State) (cs : List Cont) : (s.push cs).cnt = s.cnt := rfl
@[simp] theorem State.push_cap (s : State) (cs : List Cont) : (s.push cs).cap = s.cap := rfl
@[simp] theorem State.push_idleRun (s : State) (cs : List Cont) : (s.push cs).idleRun = s.idleRun := rfl
@[simp] theorem State.push_intCb (s : State) (cs : List Cont) : (s.push cs).intCb = s.intCb := rfl
@[simp] theorem State.push_apiEn (s : State) (cs : List Cont) : (s.push cs).apiEn = s.apiEn := rfl
@[simp] theorem State.push_awaitId (s : State) (cs : List Cont) : (s.push cs).awaitId = s.awaitId := rfl
@[simp] theorem State.push_matchResult (s : State) (cs : List Cont) : (s.push cs).matchResult = s.matchResult := rfl
@[simp] theorem State.push_rxLen (s : State) (cs : List Cont) : (s.push cs).rxLen = s.rxLen := rfl
@[simp] theorem State.push_stopSeen (s : State) (cs : List Cont) : (s.push cs).stopSeen = s.stopSeen := rfl
@[simp] theorem State.push_outcome (s : State) (cs : List Cont) : (s.push cs).outcome = s.outcome := rfl
@[simp] theorem State.push_ioCode (s : State) (cs : List Cont) : (s.push cs).ioCode = s.ioCode := rfl
@[simp] theorem State.push_dphase (s : State) (cs : List Cont) : (s.push cs).dphase = s.dphase := rfl
@[simp] theorem State.push_txCkA (s : State) (cs : List Cont) : (s.push cs).txCkA = s.txCkA := rfl
@[simp] theorem State.push_txCkB (s : State) (cs : List Cont) : (s.push cs).txCkB = s.txCkB := rfl
@[simp] theorem State.push_inited (s : State) (cs : List Cont) : (s.push cs).inited = s.inited := rfl
@[simp] theorem State.push_pb (s : State) (cs : List Cont) : (s.push cs).pb = s.pb := rfl
@[simp] theorem State.push_tx (s : State) (cs : List Cont) : (s.push cs).tx = s.tx := rfl
@[simp] theorem State.push_rx (s : State) (cs : List Cont) : (s.push cs).rx = s.rx := rfl
@[simp] theorem State.push_rxTail (s : State) (cs : List Cont) : (s.push cs).rxTail = s.rxTail := rfl
@[simp] theorem State.push_tp (s : State) (cs : List Cont) : (s.push cs).tp = s.tp := rfl
@[simp] theorem State.push_api (s : State) (cs : List Cont) : (s.push cs).api = s.api := rfl
@[simp] theorem State.push_host (s : State) (cs : List Cont) : (s.push cs).host = s.host := rfl
@[simp] theorem State.push_chunk (s : State) (cs : List Cont) : (s.push cs).chunk = s.chunk := rfl
@[simp] theorem State.push_todo (s : State) (cs : List Cont) : (s.push cs).todo = cs ++ s.todo := rfl
@[simp] theorem State.push_feedRes (s : State) (cs : List Cont) : (s.push cs).feedRes = s.feedRes := rfl
@[simp] theorem State.push_ret (s : State) (cs : List Cont) : (s.push cs).ret = s.ret := rfl
@[simp] theorem State.push_txFrame (s : State) (cs : List Cont) : (s.push cs).txFrame = s.txFrame := rfl
@[simp] theorem State.push_pbPort (s : State) (cs : List Cont) : (s.push cs).pbPort = s.pbPort := rfl
@[simp] theorem State.push_trace (s : State) (cs : List Cont) : (s.push cs).trace = s.trace := rfl
@[simp] theorem State.push_fresh (s : State) (cs : List Cont) : (s.push cs).fresh = s.fresh := rfl

@[simp] theorem State.beginSend_cfg (s : State) (id : Half) : (s.beginSend id).cfg = s.cfg := rfl
@[simp] theorem State.beginSend_state (s : State) (id : Half) : (s.beginSend id).state = s.state := rfl
@[simp] theorem State.beginSend_ckA (s : State) (id : Half) : (s.beginSend id).ckA = s.ckA := rfl
@[simp] theorem State.beginSend_ckB (s : State) (id : Half) : (s.beginSend id).ckB = s.ckB := rfl
@[simp] theorem State.beginSend_msgId (s : State) (id : Half) : (s.beginSend id).msgId = s.msgId := rfl
@[simp] theorem State.beginSend_len (s : State) (id : Half) : (s.beginSend id).len = s.len := rfl
@[simp] theorem State.beginSend_cnt (s : State) (id : Half) : (s.beginSend id).cnt = s.cnt := rfl
@[simp] theorem State.beginSend_cap (s : State) (id : Half) : (s.beginSend id).cap = s.cap := rfl
@[simp] theorem State.beginSend_idleRun (s : State) (id : Half) : (s.beginSend id).idleRun = s.idleRun := rfl
@[simp] theorem State.beginSend_intCb (s : State) (id : Half) : (s.beginSend id).intCb = s.intCb := rfl
@[simp] theorem State.beginSend_apiEn (s : State) (id : Half) : (s.beginSend id).apiEn = s.apiEn := rfl
@[simp] theorem State.beginSend_awaitId (s : State) (id : Half) : (s.beginSend id).awaitId = id := rfl
@[simp] theorem State.beginSend_matchResult (s : State) (id : Half) : (s.beginSend id).matchResult = .none := rfl
@[simp] theorem State.beginSend_rxLen (s : State) (id : Half) : (s.beginSend id).rxLen = 0 := rfl
@[simp] theorem State.beginSend_stopSeen (s : State) (id : Half) : (s.beginSend id).stopSeen = s.stopSeen := rfl
@[simp] theorem State.beginSend_outcome (s : State) (id : Half) : (s.beginSend id).outcome = s.outcome := rfl
@[simp] theorem State.beginSend_ioCode (s : State) (id : Half) : (s.beginSend id).ioCode = s.ioCode := rfl
@[simp] theorem State.beginSend_dphase (s : State) (id : Half) : (s.beginSend id).dphase = .txrx := rfl
@[simp] theorem State.beginSend_txCkA (s : State) (id : Half) : (s.beginSend id).txCkA = s.txCkA := rfl
@[simp] theorem State.beginSend_txCkB (s : State) (id : Half) : (s.beginSend id).txCkB = s.txCkB := rfl
@[simp] theorem State.beginSend_inited (s : State) (id : Half) : (s.beginSend id).inited = s.inited := rfl
@[simp] theorem State.beginSend_pb (s : State) (id : Half) : (s.beginSend id).pb = s.pb := rfl
@[simp] theorem State.beginSend_tx (s : State) (id : Half) : (s.beginSend id).tx = s.tx := rfl
@[simp] theorem State.beginSend_rx (s : State) (id : Half) : (s.beginSend id).rx = s.rx := rfl
@[simp] theorem State.beginSend_rxTail (s : State) (id : Half) : (s.beginSend id).rxTail = s.rxTail := rfl
@[simp] theorem State.beginSend_tp (s : State) (id : Half) : (s.beginSend id).tp = s.tp := rfl
@[simp] theorem State.beginSend_api (s : State) (id : Half) : (s.beginSend id).api = s.api := rfl
@[simp] theorem State.beginSend_host (s : State) (id : Half) : (s.beginSend id).host = s.host := rfl
@[simp] theorem State.beginSend_chunk (s : State) (id : Half) : (s.beginSend id).chunk = s.chunk := rfl
@[simp] theorem State.beginSend_todo (s : State) (id : Half) : (s.beginSend id).todo = s.todo := rfl
@[simp] theorem State.beginSend_feedRes (s : State) (id : Half) : (s.beginSend id).feedRes = s.feedRes := rfl
@[simp] theorem State.beginSend_ret (s : State) (id : Half) : (s.beginSend id).ret = s.ret := rfl
@[simp] theorem State.beginSend_txFrame (s : State) (id : Half) : (s.beginSend id).txFrame = s.txFrame := rfl
@[simp] theorem State.beginSend_pbPort (s : State) (id : Half) : (s.beginSend id).pbPort = s.pbPort := rfl
@[simp] theorem State.beginSend_trace (s : State) (id : Half) : (s.beginSend id).trace = s.trace := rfl
@[simp] theorem State.beginSend_fresh (s : State) (id : Half) : (s.beginSend id).fresh = s.fresh := rfl

@[simp] theorem State.latchStop_cfg (s : State) : s.latchStop.cfg = s.cfg := by
  unfold State.latchStop; split <;> rfl
@[simp] theorem State.latchStop_state (s : State) : s.latchStop.state = s.state := by
  unfold State.latchStop; split <;> rfl
@[simp] theorem State.latchStop_ckA (s : State) : s.latchStop.ckA = s.ckA := by
  unfold State.latchStop; split <;> rfl
@[simp] theorem State.latchStop_ckB (s : State) : s.latchStop.ckB = s.ckB := by
  unfold State.latchStop; split <;> rfl
@[simp] theorem State.latchStop_msgId (s : State) : s.latchStop.msgId = s.msgId := by
  unfold State.latchStop; split <;> rfl
@[simp] theorem State.latchStop_len (s : State) : s.latchStop.len = s.len := by
  unfold State.latchStop; split <;> rfl
@[simp] theorem State.latchStop_cnt (s : State) : s.latchStop.cnt = s.cnt := by
  unfold State.latchStop; split <;> rfl
@[simp] theorem State.latchStop_cap (s : State) : s.latchStop.cap = s.cap := by
  unfold State.latchStop; split <;> rfl
@[simp] theorem State.latchStop_idleRun (s : State) : s.latchStop.idleRun = s.idleRun := by
  unfold State.latchStop; split <;> rfl
@[simp] theorem State.latchStop_intCb (s : State) : s.latchStop.intCb = s.intCb := by
  unfold State.latchStop; split <;> rfl
@[simp] theorem State.latchStop_apiEn (s : State) : s.latchStop.apiEn = s.apiEn := by
  unfold State.latchStop; split <;> rfl
@[simp] theorem State.latchStop_awaitId (s : State) : s.latchStop.awaitId = s.awaitId := by
  unfold State.latchStop; split <;> rfl
@[simp] theorem State.latchStop_matchResult (s : State) : s.latchStop.matchResult = s.matchResult := by
  unfold State.latchStop; split <;> rfl
@[simp] theorem State.latchStop_rxLen (s : State) : s.latchStop.rxLen = s.rxLen := by
  unfold State.latchStop; split <;> rfl
@[simp] theorem State.latchStop_stopSeen (s : State) :
    s.latchStop.stopSeen = (decide (s.feedRes = .stop) || s.stopSeen) := by
  unfold State.latchStop; split <;> simp_all
@[simp] theorem State.latchStop_outcome (s : State) : s.latchStop.outcome = s.outcome := by
  unfold State.latchStop; split <;> rfl
@[simp] theorem State.latchStop_ioCode (s : State) : s.latchStop.ioCode = s.ioCode := by
  unfold State.latchStop; split <;> rfl
@[simp] theorem State.latchStop_dphase (s : State) : s.latchStop.dphase = s.dphase := by
  unfold State.latchStop; split <;> rfl
@[simp] theorem State.latchStop_txCkA (s : State) : s.latchStop.txCkA = s.txCkA := by
  unfold State.latchStop; split <;> rfl
@[simp] theorem State.latchStop_txCkB (s : State) : s.latchStop.txCkB = s.txCkB := by
  unfold State.latchStop; split <;> rfl
@[simp] theorem State.latchStop_inited (s : State) : s.latchStop.inited = s.inited := by
  unfold State.latchStop; split <;> rfl
@[simp] theorem State.latchStop_pb (s : State) : s.latchStop.pb = s.pb := by
  unfold State.latchStop; split <;> rfl
@[simp] theorem State.latchStop_tx (s : State) : s.latchStop.tx = s.tx := by
  unfold State.latchStop; split <;> rfl
@[simp] theorem State.latchStop_rx (s : State) : s.latchStop.rx = s.rx := by
  unfold State.latchStop; split <;> rfl
@[simp] theorem State.latchStop_rxTail (s : State) : s.latchStop.rxTail = s.rxTail := by
  unfold State.latchStop; split <;> rfl
@[simp] theorem State.latchStop_tp (s : State) : s.latchStop.tp = s.tp := by
  unfold State.latchStop; split <;> rfl
@[simp] theorem State.latchStop_api (s : State) : s.latchStop.api = s.api := by
  unfold State.latchStop; split <;> rfl
@[simp] theorem State.latchStop_host (s : State) : s.latchStop.host = s.host := by
  unfold State.latchStop; split <;> rfl
@[simp] theorem State.latchStop_chunk (s : State) : s.latchStop.chunk = s.chunk := by
  unfold State.latchStop; split <;> rfl
@[simp] theorem State.latchStop_todo (s : State) : s.latchStop.todo = s.todo := by
  unfold State.latchStop; split <;> rfl
@[simp] theorem State.latchStop_feedRes (s : State) : s.latchStop.feedRes = s.feedRes := by
  unfold State.latchStop; split <;> rfl
@[simp] theorem State.latchStop_ret (s : State) : s.latchStop.ret = s.ret := by
  unfold State.latchStop; split <;> rfl
@[simp] theorem State.latchStop_txFrame (s : State) : s.latchStop.txFrame = s.txFrame := by
  unfold State.latchStop; split <;> rfl
@[simp] theorem State.latchStop_pbPort (s : State) : s.latchStop.pbPort = s.pbPort := by
  unfold State.latchStop; split <;> rfl
@[simp] theorem State.latchStop_trace (s : State) : s.latchStop.trace = s.trace := by
  unfold State.latchStop; split <;> rfl
@[simp] theorem State.latchStop_fresh (s : State) : s.latchStop.fresh = s.fresh := by
  unfold State.latchStop; split <;> rfl

@[simp] theorem State.setCkPair_cfg (s : State) (p : CkPair) (v : Byte × Byte) :
    (s.setCkPair p v).cfg = s.cfg := by
  cases p <;> rfl
@[simp] theorem State.setCkPair_state (s : State) (p : CkPair) (v : Byte × Byte) :
    (s.setCkPair p v).state = s.state := by
  cases p <;> rfl
@[simp] theorem State.setCkPair_msgId (s : State) (p : CkPair) (v : Byte × Byte) :
    (s.setCkPair p v).msgId = s.msgId := by
  cases p <;> rfl
@[simp] theorem State.setCkPair_len (s : State) (p : CkPair) (v : Byte × Byte) :
    (s.setCkPair p v).len = s.len := by
  cases p <;> rfl
@[simp] theorem State.setCkPair_cnt (s : State) (p : CkPair) (v : Byte × Byte) :
    (s.setCkPair p v).cnt = s.cnt := by
  cases p <;> rfl
@[simp] theorem State.setCkPair_cap (s : State) (p : CkPair) (v : Byte × Byte) :
    (s.setCkPair p v).cap = s.cap := by
  cases p <;> rfl
@[simp] theorem State.setCkPair_idleRun (s : State) (p : CkPair) (v : Byte × Byte) :
    (s.setCkPair p v).idleRun = s.idleRun := by
  cases p <;> rfl
@[simp] theorem State.setCkPair_intCb (s : State) (p : CkPair) (v : Byte × Byte) :
    (s.setCkPair p v).intCb = s.intCb := by
  cases p <;> rfl
@[simp] theorem State.setCkPair_apiEn (s : State) (p : CkPair) (v : Byte × Byte) :
    (s.setCkPair p v).apiEn = s.apiEn := by
  cases p <;> rfl
@[simp] theorem State.setCkPair_awaitId (s : State) (p : CkPair) (v : Byte × Byte) :
    (s.setCkPair p v).awaitId = s.awaitId := by
  cases p <;> rfl
@[simp] theorem State.setCkPair_matchResult (s : State) (p : CkPair) (v : Byte × Byte) :
    (s.setCkPair p v).matchResult = s.matchResult := by
  cases p <;> rfl
@[simp] theorem State.setCkPair_rxLen (s : State) (p : CkPair) (v : Byte × Byte) :
    (s.setCkPair p v).rxLen = s.rxLen := by
  cases p <;> rfl
@[simp] theorem State.setCkPair_stopSeen (s : State) (p : CkPair) (v : Byte × Byte) :
    (s.setCkPair p v).stopSeen = s.stopSeen := by
  cases p <;> rfl
@[simp] theorem State.setCkPair_outcome (s : State) (p : CkPair) (v : Byte × Byte) :
    (s.setCkPair p v).outcome = s.outcome := by
  cases p <;> rfl
@[simp] theorem State.setCkPair_ioCode (s : State) (p : CkPair) (v : Byte × Byte) :
    (s.setCkPair p v).ioCode = s.ioCode := by
  cases p <;> rfl
@[simp] theorem State.setCkPair_dphase (s : State) (p : CkPair) (v : Byte × Byte) :
    (s.setCkPair p v).dphase = s.dphase := by
  cases p <;> rfl
@[simp] theorem State.setCkPair_inited (s : State) (p : CkPair) (v : Byte × Byte) :
    (s.setCkPair p v).inited = s.inited := by
  cases p <;> rfl
@[simp] theorem State.setCkPair_pb (s : State) (p : CkPair) (v : Byte × Byte) :
    (s.setCkPair p v).pb = s.pb := by
  cases p <;> rfl
@[simp] theorem State.setCkPair_tx (s : State) (p : CkPair) (v : Byte × Byte) :
    (s.setCkPair p v).tx = s.tx := by
  cases p <;> rfl
@[simp] theorem State.setCkPair_rx (s : State) (p : CkPair) (v : Byte × Byte) :
    (s.setCkPair p v).rx = s.rx := by
  cases p <;> rfl
@[simp] theorem State.setCkPair_rxTail (s : State) (p : CkPair) (v : Byte × Byte) :
    (s.setCkPair p v).rxTail = s.rxTail := by
  cases p <;> rfl
@[simp] theorem State.setCkPair_tp (s : State) (p : CkPair) (v : Byte × Byte) :
    (s.setCkPair p v).tp = s.tp := by
  cases p <;> rfl
@[simp] theorem State.setCkPair_api (s : State) (p : CkPair) (v : Byte × Byte) :
    (s.setCkPair p v).api = s.api := by
  cases p <;> rfl
@[simp] theorem State.setCkPair_host (s : State) (p : CkPair) (v : Byte × Byte) :
    (s.setCkPair p v).host = s.host := by
  cases p <;> rfl
@[simp] theorem State.setCkPair_chunk (s : State) (p : CkPair) (v : Byte × Byte) :
    (s.setCkPair p v).chunk = s.chunk := by
  cases p <;> rfl
@[simp] theorem State.setCkPair_todo (s : State) (p : CkPair) (v : Byte × Byte) :
    (s.setCkPair p v).todo = s.todo := by
  cases p <;> rfl
@[simp] theorem State.setCkPair_feedRes (s : State) (p : CkPair) (v : Byte × Byte) :
    (s.setCkPair p v).feedRes = s.feedRes := by
  cases p <;> rfl
@[simp] theorem State.setCkPair_ret (s : State) (p : CkPair) (v : Byte × Byte) :
    (s.setCkPair p v).ret = s.ret := by
  cases p <;> rfl
@[simp] theorem State.setCkPair_txFrame (s : State) (p : CkPair) (v : Byte × Byte) :
    (s.setCkPair p v).txFrame = s.txFrame := by
  cases p <;> rfl
@[simp] theorem State.setCkPair_pbPort (s : State) (p : CkPair) (v : Byte × Byte) :
    (s.setCkPair p v).pbPort = s.pbPort := by
  cases p <;> rfl
@[simp] theorem State.setCkPair_trace (s : State) (p : CkPair) (v : Byte × Byte) :
    (s.setCkPair p v).trace = s.trace := by
  cases p <;> rfl
@[simp] theorem State.setCkPair_fresh (s : State) (p : CkPair) (v : Byte × Byte) :
    (s.setCkPair p v).fresh = s.fresh := by
  cases p <;> rfl

@[simp] theorem State.ckPair_setCkPair (s : State) (p : CkPair) (v : Byte × Byte) :
    (s.setCkPair p v).ckPair p = v := by
  cases p <;> rfl

@[simp] theorem State.decCtx_len (s : State) : s.decCtx.len = s.len := rfl
@[simp] theorem State.decCtx_cnt (s : State) : s.decCtx.cnt = s.cnt := rfl
@[simp] theorem State.decCtx_cap (s : State) : s.decCtx.cap = s.cap := rfl
@[simp] theorem State.decCtx_ckA (s : State) : s.decCtx.ckA = s.ckA := rfl
@[simp] theorem State.decCtx_ckB (s : State) : s.decCtx.ckB = s.ckB := rfl

end Sys2Proof.Machine
end

