-- ==== Sys2Proof/Laws/Decode.lean ====
section
/-!
SUPPORT. The fields of the words the encoder builds read back, and a decode word decodes to the row that
R76 selects.
-/

namespace Sys2Proof

@[simp] theorem decodeWord_state (st : DecState) (x : Byte) :
    (decodeWord st x).extractLsb' 8 4 = st.code := by
  unfold decodeWord
  ext i hi
  simp only [BitVec.getElem_extractLsb', BitVec.getLsbD_append]
  simp [hi]

@[simp] theorem decodeWord_byte (st : DecState) (x : Byte) :
    (decodeWord st x).extractLsb' 0 8 = x := by
  unfold decodeWord
  ext i hi
  simp only [BitVec.getElem_extractLsb', BitVec.getLsbD_append]
  simp [hi]

@[simp] theorem DecState.ofCode?_code (st : DecState) : DecState.ofCode? st.code = some st := by
  cases st <;> rfl

/-- A decode word decodes to the row its state and byte select. -/
@[simp] theorem decodeDec_decodeWord (p : Params) (r : DecCtx) (st : DecState) (x : Byte) :
    decodeDec p r (decodeWord st x) = .ok (selectRow p r st x) := by
  simp [decodeDec]

@[simp] theorem cmdWord_opcode (o : BitVec 3) (a b : Half) :
    (cmdWord o a b).extractLsb' 32 3 = o := by
  unfold cmdWord
  ext i hi
  simp only [BitVec.getElem_extractLsb', BitVec.getLsbD_append]
  simp [show ¬ 32 + i < 16 by omega, show ¬ 32 + i - 16 < 16 by omega,
    show 32 + i - 16 - 16 = i by omega, hi]

@[simp] theorem cmdWord_a (o : BitVec 3) (a b : Half) : (cmdWord o a b).extractLsb' 16 16 = a := by
  unfold cmdWord
  ext i hi
  simp only [BitVec.getElem_extractLsb', BitVec.getLsbD_append]
  simp [show ¬ 16 + i < 16 by omega, hi]

@[simp] theorem cmdWord_b (o : BitVec 3) (a b : Half) : (cmdWord o a b).extractLsb' 0 16 = b := by
  unfold cmdWord
  ext i hi
  simp only [BitVec.getElem_extractLsb', BitVec.getLsbD_append]
  simp [hi]

end Sys2Proof
end

