-- ==== Sys2Proof/Laws/Memory.lean ====
section
/-!
SUPPORT. The payload buffer: a byte reads as last written, a write leaves every other byte alone, and
every write keeps the canonical form.
-/

namespace Sys2Proof.Machine

theorem Memory.get?_set (m : Memory) (a b : Nat) (v : Byte) :
    Memory.get? (Memory.set m a v) b = if a = b then some v else Memory.get? m b := by
  induction m with
  | nil => simp [Memory.set, Memory.get?]
  | cons c m ih =>
    obtain ⟨k, w⟩ := c
    simp only [Memory.set]
    split_ifs <;> simp_all [Memory.get?] <;> grind

@[simp] theorem Memory.get?_set_same (m : Memory) (a : Nat) (v : Byte) :
    Memory.get? (Memory.set m a v) a = some v := by simp [Memory.get?_set]

theorem Memory.get?_set_other (m : Memory) (a b : Nat) (v : Byte) (h : a ≠ b) :
    Memory.get? (Memory.set m a v) b = Memory.get? m b := by simp [Memory.get?_set, h]

/-- The head of a written memory is the written address or the old head. -/
theorem Memory.wf_cons_set (k : Nat) (w : Byte) (m : Memory) (a : Nat) (v : Byte)
    (h : Memory.wf ((k, w) :: m) = true) (hk : k < a)
    (hm : Memory.wf (Memory.set m a v) = true) :
    Memory.wf ((k, w) :: Memory.set m a v) = true := by
  cases m with
  | nil => simpa [Memory.set, Memory.wf] using hk
  | cons c m =>
    obtain ⟨j, u⟩ := c
    simp only [Memory.set] at hm ⊢
    split_ifs at hm ⊢ <;> simp_all [Memory.wf]

/-- A write keeps the canonical form. -/
theorem Memory.wf_set (m : Memory) (a : Nat) (v : Byte) (h : Memory.wf m = true) :
    Memory.wf (Memory.set m a v) = true := by
  induction m with
  | nil => rfl
  | cons c m ih =>
    obtain ⟨k, w⟩ := c
    have hm : Memory.wf m = true := by
      cases m with
      | nil => rfl
      | cons d m => simp_all [Memory.wf]
    by_cases h1 : a < k
    · simp [Memory.set, h1, Memory.wf, h]
    · by_cases h2 : a = k
      · subst h2
        cases m with
        | nil => simp [Memory.set, Memory.wf]
        | cons d m => simp_all [Memory.set, Memory.wf]
      · have h3 : Memory.set ((k, w) :: m) a v = (k, w) :: Memory.set m a v := by
          simp [Memory.set, h1, h2]
        rw [h3]
        exact Memory.wf_cons_set k w m a v h (by omega) (ih hm)

theorem Memory.wf_setFrom (vs : List Byte) (m : Memory) (a : Nat) (h : Memory.wf m = true) :
    Memory.wf (Memory.setFrom m a vs) = true := by
  induction vs generalizing m a with
  | nil => exact h
  | cons v vs ih => exact ih _ _ (Memory.wf_set m a v h)

/-- Consecutive bytes read back as written, and every other address as before. -/
theorem Memory.get?_setFrom (vs : List Byte) (m : Memory) (a b : Nat) :
    Memory.get? (Memory.setFrom m a vs) b =
      if a ≤ b then (vs[b - a]?).or (Memory.get? m b) else Memory.get? m b := by
  induction vs generalizing m a with
  | nil => simp [Memory.setFrom]
  | cons v vs ih =>
    simp only [Memory.setFrom, ih, Memory.get?_set]
    rcases Nat.lt_trichotomy a b with h | h | h
    · have : b - a = (b - (a + 1)) + 1 := by omega
      simp [show a + 1 ≤ b by omega, show a ≤ b by omega, show a ≠ b by omega, this]
    · subst h; simp
    · simp [show ¬ a + 1 ≤ b by omega, show ¬ a ≤ b by omega, show a ≠ b by omega]

theorem Memory.setFrom_append (vs us : List Byte) (m : Memory) (a : Nat) :
    Memory.setFrom m a (vs ++ us) = Memory.setFrom (Memory.setFrom m a vs) (a + vs.length) us := by
  induction vs generalizing m a with
  | nil => rfl
  | cons v vs ih =>
    simp only [List.cons_append, Memory.setFrom, ih, List.length_cons]
    congr 1
    omega

/-- A read of PB after a write: the written byte, or what was there. -/
theorem State.pbByte_set (s : State) (a b : Nat) (v : Byte) :
    State.pbByte { s with pb := Memory.set s.pb a v } b = if a = b then v else s.pbByte b := by
  simp only [State.pbByte, Memory.get?_set]
  split <;> rfl

/-- PB reads depend on the listed bytes alone. -/
theorem State.pbByte_congr (s t : State) (h : t.pb = s.pb) (a : Nat) : t.pbByte a = s.pbByte a := by
  simp [State.pbByte, h]

@[simp] theorem State.pbBytes_length (s : State) (n : Nat) : (s.pbBytes n).length = n := by
  simp [State.pbBytes]

end Sys2Proof.Machine
end

