-- ==== Sys2Proof/Laws/Ops.lean ====
section
/-!
SUPPORT. For each shared operation, once, everything it can do: if it answers a next state, what that
state is and what let it. Proofs cite these instead of unfolding the operation.
-/

namespace Sys2Proof.Machine

variable {s t : State} {o : Res} {f : State → Res} {g : State → State}

@[simp] theorem andThen_next (s : State) (f : State → Res) : andThen (.next s) f = f s := rfl
@[simp] theorem andThen_fault (r : Fault) (f : State → Res) : andThen (.fault r) f = .fault r := rfl
@[simp] theorem andThen_refused (r : Refusal) (f : State → Res) :
    andThen (.refused r) f = .refused r := rfl
@[simp] theorem mapNext_next (s : State) (g : State → State) : mapNext (.next s) g = .next (g s) := rfl
@[simp] theorem mapNext_fault (r : Fault) (g : State → State) : mapNext (.fault r) g = .fault r := rfl
@[simp] theorem mapNext_refused (r : Refusal) (g : State → State) :
    mapNext (.refused r) g = .refused r := rfl

theorem andThen_eq_next : andThen o f = .next t ↔ ∃ u, o = .next u ∧ f u = .next t := by
  cases o <;> simp [andThen]

theorem andThen_eq_fault {r : Fault} :
    andThen o f = .fault r ↔ o = .fault r ∨ ∃ u, o = .next u ∧ f u = .fault r := by
  cases o <;> simp [andThen]

theorem andThen_eq_refused {r : Refusal} :
    andThen o f = .refused r ↔ o = .refused r ∨ ∃ u, o = .next u ∧ f u = .refused r := by
  cases o <;> simp [andThen]

theorem mapNext_eq_next : mapNext o g = .next t ↔ ∃ u, o = .next u ∧ g u = t := by
  cases o <;> simp [mapNext]

theorem mapNext_eq_fault {r : Fault} : mapNext o g = .fault r ↔ o = .fault r := by
  cases o <;> simp [mapNext]

theorem mapNext_eq_refused {r : Refusal} : mapNext o g = .refused r ↔ o = .refused r := by
  cases o <;> simp [mapNext]

theorem andThen_assoc (o : Res) (f h : State → Res) :
    andThen (andThen o f) h = andThen o fun t => andThen (f t) h := by
  cases o <;> rfl

/-- `MemWrite` answers next only inside PB, and then writes that byte alone. -/
theorem memWrite_eq_next {a : Nat} {v : Byte} :
    memWrite a v s = .next t ↔ a < s.cap.toNat ∧ t = { s with pb := Memory.set s.pb a v } := by
  unfold memWrite; split <;> simp_all [eq_comm]

theorem memWrite_eq_fault {a : Nat} {v : Byte} {r : Fault} :
    memWrite a v s = .fault r ↔ s.cap.toNat ≤ a ∧ r = .pbOutOfRange := by
  unfold memWrite; split <;> simp_all [eq_comm]

theorem memWrite_ne_refused {a : Nat} {v : Byte} {r : Refusal} : memWrite a v s ≠ .refused r := by
  unfold memWrite; split <;> simp

/-- `MemRead` of `PB[0..n-1]` succeeds exactly inside PB. -/
theorem memReadUpTo_eq_ok {n : Nat} {bs : List Byte} :
    memReadUpTo n s = .ok bs ↔ n ≤ s.cap.toNat ∧ bs = s.pbBytes n := by
  unfold memReadUpTo; split <;> simp [*, eq_comm (a := s.pbBytes n)]

theorem memReadUpTo_of_le {n : Nat} (h : n ≤ s.cap.toNat) : memReadUpTo n s = .ok (s.pbBytes n) := by
  simp [memReadUpTo, h]

/-- A byte of `MemRead` of `PB[0..n-1]`. -/
theorem pbBytes_getD {k n : Nat} (h : k < n) : (s.pbBytes n).getD k 0 = s.pbByte k := by
  simp [State.pbBytes, h]

theorem ackClassAt_lt (p : Params) : p.ackClassAt < p.ackLen := by simp [Params.ackLen]

theorem ackIdAt_lt (p : Params) : p.ackIdAt < p.ackLen := by simp [Params.ackLen]

theorem memReadUpTo_of_lt {n : Nat} (h : s.cap.toNat < n) :
    memReadUpTo n s = .error .pbOutOfRange := by
  simp [memReadUpTo, Nat.not_le.mpr h]

/-- The host's write answers next only after INIT, idle and inside PB. -/
theorem hostWrite_eq_next {a : Nat} {v : Byte} :
    hostWrite a v s = .next t ↔
      s.inited = true ∧ s.dphase = .idle ∧ a < s.cap.toNat ∧
        t = { s with pb := Memory.set s.pb a v } := by
  unfold hostWrite; split_ifs <;> simp_all [eq_comm (b := t)]

theorem hostWrite_ne_fault {a : Nat} {v : Byte} {r : Fault} : hostWrite a v s ≠ .fault r := by
  unfold hostWrite; split_ifs <;> simp

theorem hostWrite_eq_refused {a : Nat} {v : Byte} {r : Refusal} (h : hostWrite a v s = .refused r) :
    r = .notInitialised ∨ (r = .hostWhileBusy ∧ s.dphase ≠ .idle) ∨ r = .hostOutsidePB := by
  unfold hostWrite at h; split_ifs at h <;> simp_all

theorem hostRead_eq_next {a : Nat} :
    hostRead a s = .next t ↔
      s.inited = true ∧ s.dphase = .idle ∧ a < s.cap.toNat ∧ t = { s with pbPort := s.pbByte a } := by
  unfold hostRead; split_ifs <;> simp_all [eq_comm (b := t)]

theorem hostRead_ne_fault {a : Nat} {r : Fault} : hostRead a s ≠ .fault r := by
  unfold hostRead; split_ifs <;> simp

theorem hostRead_eq_refused {a : Nat} {r : Refusal} (h : hostRead a s = .refused r) :
    r = .notInitialised ∨ (r = .hostWhileBusy ∧ s.dphase ≠ .idle) ∨ r = .hostOutsidePB := by
  unfold hostRead at h; split_ifs at h <;> simp_all

/-- A decoder row answers next only where it is selected. -/
theorem onRow_eq_next {i : Instr} : onRow i s o = .next t ↔ s.selects i = true ∧ o = .next t := by
  unfold onRow; split <;> simp_all

theorem onRow_eq_fault {i : Instr} {r : Fault} :
    onRow i s o = .fault r ↔ s.selects i = true ∧ o = .fault r := by
  unfold onRow; split <;> simp_all

theorem onRow_of_selected {i : Instr} (h : s.selects i = true) : onRow i s o = o := by
  simp [onRow, h]

/-- A framing error always answers next (R201). -/
theorem raiseFraming_eq_next {e : TraceEvent} :
    raiseFraming e s = .next t ↔ t = ((s.record e).clearDec).setResult .parsing := by
  simp [raiseFraming, eq_comm]

@[simp] theorem apiAnswer_code_cont : ApiAnswer.cont.code = some 0 := rfl
@[simp] theorem apiAnswer_code_stop : ApiAnswer.stop.code = some 1 := rfl
@[simp] theorem apiAnswer_code_silent : ApiAnswer.silent.code = none := rfl
@[simp] theorem apiResult_zero : apiResult 0#1 = .cont := rfl
@[simp] theorem apiResult_one : apiResult 1#1 = .stop := rfl

/-- The API event answers next only with a consumer that answers, and its answer is the result (R146). -/
theorem deliver_eq_next {id n : Half} :
    deliver id n s = .next t ↔ s.apiEn = true ∧
      ((s.nextApi = .stop ∧ t = (s.delivered id n).setResult .stop) ∨
       (s.nextApi = .cont ∧ t = (s.delivered id n).setResult .cont)) := by
  unfold deliver
  cases s.apiEn <;> cases s.nextApi <;> simp [eq_comm]

theorem deliver_eq_fault {id n : Half} {r : Fault} (h : deliver id n s = .fault r) :
    r = .consumerSilent ∧ s.apiEn = true ∧ s.nextApi = .silent := by
  unfold deliver at h
  cases h1 : s.apiEn <;> cases h2 : s.nextApi <;> simp_all

theorem deliver_eq_refused {id n : Half} {r : Refusal} (h : deliver id n s = .refused r) :
    r = .noConsumer ∧ s.apiEn = false := by
  unfold deliver at h
  cases h1 : s.apiEn <;> cases h2 : s.nextApi <;> simp_all

theorem admitCommand_eq_next : admitCommand s o = .next t ↔
    s.inited = true ∧ s.dphase = .idle ∧ o = .next t := by
  unfold admitCommand; split_ifs <;> simp_all

theorem admitSend_eq_next {n : Half} : admitSend n s o = .next t ↔
    s.inited = true ∧ s.dphase = .idle ∧ n.toNat ≤ s.cap.toNat ∧ o = .next t := by
  unfold admitSend; rw [admitCommand_eq_next]; split_ifs <;> simp_all

theorem admitCommand_of_ready (h : s.inited = true) (h' : s.dphase = .idle) :
    admitCommand s o = o := by simp [admitCommand, h, h']

theorem admitSend_of_ready {n : Half} (h : s.inited = true) (h' : s.dphase = .idle)
    (h'' : n.toNat ≤ s.cap.toNat) : admitSend n s o = o := by simp [admitSend, admitCommand, *]

theorem admitSend_next_ne_fault {n : Half} {r : Fault} : admitSend n s (.next t) ≠ .fault r := by
  unfold admitSend admitCommand; split_ifs <;> simp

theorem admitCommand_next_ne_fault {r : Fault} : admitCommand s (.next t) ≠ .fault r := by
  unfold admitCommand; split_ifs <;> simp

theorem admitSend_eq_refused {n : Half} {r : Refusal} (h : admitSend n s (.next t) = .refused r) :
    r = .notInitialised ∨ (r = .busy ∧ s.dphase ≠ .idle) ∨ r = .sendTooLong := by
  unfold admitSend admitCommand at h; split_ifs at h <;> simp_all

theorem admitCommand_eq_refused {r : Refusal} (h : admitCommand s (.next t) = .refused r) :
    r = .notInitialised ∨ (r = .busy ∧ s.dphase ≠ .idle) := by
  unfold admitCommand at h; split_ifs at h <;> simp_all

/-! ### The transport port -/

@[simp] theorem rxFill_length (s : State) (k : Nat) : (s.rxFill k).length = k := by
  unfold State.rxFill; split <;> simp

/-- A transaction hands over exactly as many bytes as it asks for (R215). -/
@[simp] theorem rxNext_length (s : State) (m : Nat) : (s.rxNext m).length = m := by
  simp [State.rxNext]; omega

/-- The registers, PB and control that no transaction changes. -/
theorem transceive_eq_next {frame : List Byte} (h : transceive frame s = .next t) :
    (s.nextTp = .ok ∧ t = { s.tpTaken with
      tx := s.tx ++ frame
      rx := s.rx.drop frame.length
      chunk := s.chunk ++ s.rxNext frame.length
      trace := .transceive frame.length true :: s.trace
      ret := .done }) ∨
    (∃ e sent, s.nextTp = .err e sent ∧ t = { s.tpTaken with
      tx := s.tx ++ frame.take sent
      trace := .transceive frame.length false :: s.trace
      ret := .failed e }) := by
  unfold transceive at h
  split at h <;> simp_all

theorem transceive_eq_fault {frame : List Byte} {r : Fault} (h : transceive frame s = .fault r) :
    r = .transportSilent := by
  unfold transceive at h
  split at h <;> simp_all

theorem transceive_ne_refused {frame : List Byte} {r : Refusal} :
    transceive frame s ≠ .refused r := by
  unfold transceive; split <;> simp

theorem readBytes_eq_next {m : Nat} (h : readBytes m s = .next t) :
    (s.nextTp = .ok ∧ t = { s.tpTaken with
      rx := s.rx.drop m
      chunk := s.chunk ++ s.rxNext m
      trace := .read m true :: s.trace
      ret := .done }) ∨
    (∃ e sent, s.nextTp = .err e sent ∧ t = { s.tpTaken with
      trace := .read m false :: s.trace
      ret := .failed e }) := by
  unfold readBytes at h
  split at h <;> simp_all

theorem readBytes_eq_fault {m : Nat} {r : Fault} (h : readBytes m s = .fault r) :
    r = .transportSilent := by
  unfold readBytes at h
  split at h <;> simp_all

theorem readBytes_ne_refused {m : Nat} {r : Refusal} : readBytes m s ≠ .refused r := by
  unfold readBytes; split <;> simp

/-! ### Strategies and the frame-accept step -/

/-- What the part MATCH_ACKNAK's two ids share can answer (R143). -/
theorem matchAcknowledged_eq_next {b : Bool} {n : Half} (h : matchAcknowledged b n s = .next t) :
    t = s.setResult .cont ∨
    (s.cfg.ackLen ≤ n.toNat ∧ s.cfg.ackLen ≤ s.cap.toNat ∧
      joinBytes (s.pbByte s.cfg.ackClassAt) (s.pbByte s.cfg.ackIdAt) = s.awaitId ∧
      t = State.setResult { s with matchResult := ackMatch b } .stop) := by
  unfold matchAcknowledged at h
  split at h
  · rename_i h2
    split at h
    · rename_i bs hb
      obtain ⟨hc, rfl⟩ := memReadUpTo_eq_ok.mp hb
      split at h
      · rename_i hj
        refine .inr ⟨h2, hc, ?_, by simpa using h.symm⟩
        rwa [pbBytes_getD (ackClassAt_lt _), pbBytes_getD (ackIdAt_lt _)] at hj
      · exact .inl (by simpa using h.symm)
    · simp at h
  · exact .inl (by simpa using h.symm)

theorem matchAcknowledged_eq_fault {b : Bool} {n : Half} {r : Fault}
    (h : matchAcknowledged b n s = .fault r) :
    r = .pbOutOfRange ∧ s.cfg.ackLen ≤ n.toNat ∧ s.cap.toNat < s.cfg.ackLen := by
  unfold matchAcknowledged at h
  split at h
  · rename_i h2
    split at h
    · split at h <;> simp at h
    · rename_i f hf
      unfold memReadUpTo at hf
      split at hf
      · simp at hf
      · simp at hf h
        subst hf h
        exact ⟨rfl, h2, by omega⟩
  · simp at h

theorem matchAcknowledged_ne_refused {b : Bool} {n : Half} {r : Refusal} :
    matchAcknowledged b n s ≠ .refused r := by
  unfold matchAcknowledged
  split
  · split
    · split <;> simp
    · simp
  · simp

/-- Everything a strategy can answer: CONTINUE with nothing written; or STOP with `match_result`, and
`rx_len` at most the frame's length, written (R141 to R143). -/
theorem runStrategy_eq_next {id n : Half} (h : runStrategy id n s = .next t) :
    t = s.setResult .cont ∨
    (id = s.awaitId ∧ s.intCb = .matchReply ∧
      t = State.setResult { s with matchResult := .replied, rxLen := n } .stop) ∨
    (∃ b, s.intCb = .matchAcknak ∧ t = State.setResult { s with matchResult := ackMatch b } .stop) := by
  unfold runStrategy at h
  split at h
  · exact .inl (by simpa [execStratNone] using h.symm)
  · unfold execStratMatchReply at h
    split at h
    · exact .inr (.inl ⟨‹_›, ‹_›, by simpa using h.symm⟩)
    · exact .inl (by simpa using h.symm)
  · unfold execStratMatchAcknak execMsgidAckAck execMsgidAckNak at h
    split_ifs at h
    · rcases matchAcknowledged_eq_next h with rfl | ⟨-, -, -, rfl⟩
      · exact .inl rfl
      · exact .inr (.inr ⟨_, ‹_›, rfl⟩)
    · rcases matchAcknowledged_eq_next h with rfl | ⟨-, -, -, rfl⟩
      · exact .inl rfl
      · exact .inr (.inr ⟨_, ‹_›, rfl⟩)
    · exact .inl (by simpa using h.symm)

theorem runStrategy_eq_fault {id n : Half} {r : Fault} (h : runStrategy id n s = .fault r) :
    r = .pbOutOfRange ∧ s.intCb = .matchAcknak ∧ (id = s.cfg.ackAckId ∨ id = s.cfg.ackNakId) ∧
      s.cfg.ackLen ≤ n.toNat ∧ s.cap.toNat < s.cfg.ackLen := by
  unfold runStrategy at h
  split at h
  · simp [execStratNone] at h
  · unfold execStratMatchReply at h; split at h <;> simp at h
  · unfold execStratMatchAcknak execMsgidAckAck execMsgidAckNak at h
    split_ifs at h with h1 h2
    · exact ⟨(matchAcknowledged_eq_fault h).1, ‹_›, .inl h1, (matchAcknowledged_eq_fault h).2⟩
    · exact ⟨(matchAcknowledged_eq_fault h).1, ‹_›, .inr h2, (matchAcknowledged_eq_fault h).2⟩

theorem runStrategy_ne_refused {id n : Half} {r : Refusal} : runStrategy id n s ≠ .refused r := by
  unfold runStrategy
  split
  · simp [execStratNone]
  · unfold execStratMatchReply; split <;> simp
  · unfold execStratMatchAcknak execMsgidAckAck execMsgidAckNak
    split_ifs
    · exact matchAcknowledged_ne_refused
    · exact matchAcknowledged_ne_refused
    · simp

/-- Everything ACCEPT can answer (R140): the strategy's STOP; or its CONTINUE with no consumer attached;
or the consumer's answer. -/
theorem execAccept_eq_next {id n : Half} (h : execAccept id n s = .next t) :
    ∃ u, runStrategy id n (s.record (.accepted id n)) = .next u ∧
      ((u.feedRes = .stop ∧ t = u) ∨ (u.feedRes = .cont ∧ u.apiEn = false ∧ t = u) ∨
       (u.feedRes = .cont ∧ deliver id n u = .next t)) := by
  unfold execAccept at h
  obtain ⟨u, hu, h⟩ := andThen_eq_next.mp h
  refine ⟨u, hu, ?_⟩
  have hf : u.feedRes = .cont ∨ u.feedRes = .stop := by
    rcases runStrategy_eq_next hu with rfl | ⟨-, -, rfl⟩ | ⟨b, -, rfl⟩ <;> simp
  simp only [execApiDeliver] at h
  rcases hf with hf | hf <;> cases ha : u.apiEn <;> simp_all

theorem execAccept_eq_fault {id n : Half} {r : Fault} (h : execAccept id n s = .fault r) :
    r = .consumerSilent ∨
    (r = .pbOutOfRange ∧ s.intCb = .matchAcknak ∧ s.cfg.ackLen ≤ n.toNat ∧ s.cap.toNat < s.cfg.ackLen) := by
  unfold execAccept at h
  rcases andThen_eq_fault.mp h with h | ⟨u, -, h⟩
  · obtain ⟨h1, h2, -, h3, h4⟩ := runStrategy_eq_fault h
    exact .inr ⟨h1, h2, h3, h4⟩
  · split at h
    · exact .inl (deliver_eq_fault h).1
    · simp at h

theorem execAccept_ne_refused {id n : Half} {r : Refusal} : execAccept id n s ≠ .refused r := by
  unfold execAccept
  intro h
  rcases andThen_eq_refused.mp h with h | ⟨u, -, h⟩
  · exact runStrategy_ne_refused h
  · split at h
    · rename_i hc
      have := (deliver_eq_refused h).2
      simp_all
    · simp at h

/-- The shape of the state ACCEPT leaves: the fields it may write, and how the trace, the API script and
the counter move together. -/
theorem execAccept_shape {id n : Half} (h : execAccept id n s = .next t) :
    ∃ m l r d a f, t = { s with
        matchResult := m, rxLen := l, feedRes := r, trace := d ++ .accepted id n :: s.trace
        api := a, fresh := f } ∧
      (r = .stop ∨ r = .cont) ∧ (l = s.rxLen ∨ l = n) ∧
      ((d = [] ∧ a = s.api ∧ f = s.fresh) ∨
        (d = [.delivered id n] ∧ a = s.api.tail ∧ f = s.fresh + 1 ∧ s.apiEn = true)) := by
  obtain ⟨u, hu, h⟩ := execAccept_eq_next h
  have hu : ∃ m l r, u = { s with
      matchResult := m, rxLen := l, feedRes := r, trace := .accepted id n :: s.trace } ∧
      (r = .stop ∨ r = .cont) ∧ (l = s.rxLen ∨ l = n) := by
    rcases runStrategy_eq_next hu with rfl | ⟨-, -, rfl⟩ | ⟨b, -, rfl⟩
    · exact ⟨_, _, _, rfl, .inr rfl, .inl rfl⟩
    · exact ⟨_, _, _, rfl, .inl rfl, .inr rfl⟩
    · exact ⟨_, _, _, rfl, .inl rfl, .inl rfl⟩
  obtain ⟨m, l, r, rfl, hr, hl⟩ := hu
  rcases h with ⟨-, rfl⟩ | ⟨-, -, rfl⟩ | ⟨-, h⟩
  · exact ⟨m, l, r, [], _, _, rfl, hr, hl, .inl ⟨rfl, rfl, rfl⟩⟩
  · exact ⟨m, l, r, [], _, _, rfl, hr, hl, .inl ⟨rfl, rfl, rfl⟩⟩
  · obtain ⟨ha, ⟨-, rfl⟩ | ⟨-, rfl⟩⟩ := deliver_eq_next.mp h
    · exact ⟨m, l, .stop, [.delivered id n], _, _, rfl, .inl rfl, hl, .inr ⟨rfl, rfl, rfl, ha⟩⟩
    · exact ⟨m, l, .cont, [.delivered id n], _, _, rfl, .inr rfl, hl, .inr ⟨rfl, rfl, rfl, ha⟩⟩

end Sys2Proof.Machine
end

