-- ==== Sys2Proof/Laws/Decoder.lean ====
section
/-!
SUPPORT. What each decoder row does where it is selected, and once for all what a FEED does: one case per
line of 41_decoder.md R131. Proofs about a FEED take `execFeed_effect` apart instead of unfolding FEED.
-/

namespace Sys2Proof.Machine

variable {s t : State} {x : Byte}

/-! ### Byte assembly -/

theorem joinBytes_toNat (hi lo : Byte) : (joinBytes hi lo).toNat = 256 * hi.toNat + lo.toNat := by
  have h := lo.isLt
  have : (joinBytes hi lo).toNat = hi.toNat <<< 8 ||| lo.toNat := BitVec.toNat_append ..
  rw [this, ← Nat.shiftLeft_add_eq_or_of_lt h, Nat.shiftLeft_eq]
  omega

theorem joinBytes_eq_zero {hi lo : Byte} : joinBytes hi lo = 0 ↔ hi = 0 ∧ lo = 0 := by
  have h := joinBytes_toNat hi lo
  constructor
  · intro h0
    rw [h0] at h
    have h1 : (0 : Half).toNat = 0 := rfl
    exact ⟨BitVec.eq_of_toNat_eq (by simp; omega), BitVec.eq_of_toNat_eq (by simp; omega)⟩
  · rintro ⟨rfl, rfl⟩
    rfl

@[simp] theorem highByte_joinBytes (hi lo : Byte) : highByte (joinBytes hi lo) = hi := by
  apply BitVec.eq_of_toNat_eq
  have := joinBytes_toNat hi lo
  have := lo.isLt
  have := hi.isLt
  simp [highByte, joinBytes_toNat, Nat.shiftRight_eq_div_pow]
  omega

@[simp] theorem lowByte_joinBytes (hi lo : Byte) : lowByte (joinBytes hi lo) = lo := by
  apply BitVec.eq_of_toNat_eq
  have := lo.isLt
  simp [lowByte, joinBytes_toNat]
  omega

@[simp] theorem joinBytes_high_low (v : Half) : joinBytes (highByte v) (lowByte v) = v := by
  apply BitVec.eq_of_toNat_eq
  have := v.isLt
  simp [highByte, lowByte, joinBytes_toNat, Nat.shiftRight_eq_div_pow]
  omega

@[simp] theorem zext16_toNat (x : Byte) : (zext16 x).toNat = x.toNat := by
  have := x.isLt
  simp [zext16]
  omega

@[simp] theorem lowByte_zext16 (x : Byte) : lowByte (zext16 x) = x := by
  apply BitVec.eq_of_toNat_eq
  have := x.isLt
  simp [lowByte]
  omega

theorem satInc16_toNat (v : Half) : (satInc16 v).toNat = min (v.toNat + 1) 65535 := by
  have := v.isLt
  unfold satInc16
  split
  · have h1 : (1 : Half).toNat = 1 := rfl
    rw [BitVec.toNat_add, h1]
    omega
  · omega

/-- Below a 16-bit bound the count does not wrap. -/
theorem succ_toNat {v w : Half} (h : v.toNat < w.toNat) : (v + 1).toNat = v.toNat + 1 := by
  have := w.isLt
  have h1 : (1 : Half).toNat = 1 := rfl
  rw [BitVec.toNat_add, h1]
  omega

/-! ### FEED -/

/-- A framing error's next state. -/
def State.framed (s : State) (e : TraceEvent) : State := ((s.record e).clearDec).setResult .parsing

/-- The state after a payload byte that is stored. -/
def State.stored (s : State) (x : Byte) : State :=
  { s.foldByte x with
    pb := Memory.set s.pb s.cnt.toNat x
    cnt := s.cnt + 1
    state := if s.cnt + 1 = s.len then .chksum1 else .payload
    feedRes := .parsing }

/-- What a FEED of `x` does in state `s`: the lines of R131. -/
inductive FeedEffect (s : State) (x : Byte) : Res → Prop where
  | sync : s.state = .sync1 → x = s.cfg.sync1 →
      FeedEffect s x (.next { s with idleRun := 0, state := .sync2, feedRes := .parsing })
  | idle : s.state = .sync1 → x ≠ s.cfg.sync1 → x = s.cfg.idle →
      FeedEffect s x (.next { s with idleRun := satInc16 s.idleRun, feedRes := .parsing })
  | noise : s.state = .sync1 → x ≠ s.cfg.sync1 → x ≠ s.cfg.idle →
      FeedEffect s x (.next { s with idleRun := 0, feedRes := .parsing })
  | match2 : s.state = .sync2 → x = s.cfg.sync2 →
      FeedEffect s x (.next { s with state := .cls, feedRes := .parsing })
  | miss2 : s.state = .sync2 → x ≠ s.cfg.sync2 → FeedEffect s x (.next (s.framed .feSync2))
  | cls : s.state = .cls →
      FeedEffect s x (.next
        { s.foldByte x with msgId := zext16 x, state := .id, feedRes := .parsing })
  | id : s.state = .id →
      FeedEffect s x (.next
        { s.foldByte x with
          msgId := joinBytes (lowByte s.msgId) x, state := .length1, feedRes := .parsing })
  | length1 : s.state = .length1 →
      FeedEffect s x (.next
        { s.foldByte x with len := zext16 x, state := .length2, feedRes := .parsing })
  | length2 : s.state = .length2 →
      FeedEffect s x (.next
        { s.foldByte x with
          len := joinBytes x (lowByte s.len)
          state := if joinBytes x (lowByte s.len) = 0 then .chksum1 else .payload
          feedRes := .parsing })
  | overrun : s.state = .payload → s.cap.toNat ≤ s.cnt.toNat →
      FeedEffect s x (.next (s.framed .feOverrun))
  | store : s.state = .payload → s.cnt.toNat < s.cap.toNat → FeedEffect s x (.next (s.stored x))
  | match1 : s.state = .chksum1 → x = s.ckA →
      FeedEffect s x (.next { s with state := .chksum2, feedRes := .parsing })
  | miss1 : s.state = .chksum1 → x ≠ s.ckA → FeedEffect s x (.next (s.framed .feCkA))
  | accept : s.state = .chksum2 → x = s.ckB →
      FeedEffect s x (execAccept s.msgId s.len s.clearDec)
  | strict : s.state = .chksum2 → x ≠ s.ckB → s.cfg.ck2Strict = true →
      FeedEffect s x (.next (s.framed .feCkB))
  | lenient : s.state = .chksum2 → x ≠ s.ckB → s.cfg.ck2Strict = false →
      FeedEffect s x (execAccept s.msgId s.len (s.record .ckBIgnored).clearDec)

/-- A FEED performs the row R76 selects (R110). -/
theorem execFeed_eq_selectRow (s : State) (x : Byte) :
    execFeed x s = exec (selectRow s.cfg s.decCtx s.state x) s := by
  unfold execFeed
  cases h : s.state
  case length2 =>
    by_cases h2 : joinBytes x (lowByte s.len) = 0
    · obtain ⟨h3, h4⟩ := joinBytes_eq_zero.mp h2
      subst h3
      have : selectRow s.cfg s.decCtx .length2 0 = .len2Zero := if_pos ⟨rfl, h4⟩
      simp only [this]
      exact if_pos h2
    · have h3 := h2
      rw [joinBytes_eq_zero] at h3
      have : selectRow s.cfg s.decCtx .length2 x = .len2Nz x := if_neg h3
      simp only [this]
      exact if_neg h2
  all_goals simp only [selectRow]
  all_goals first
    | rfl
    | (split_ifs <;> first | rfl | (exfalso; simp_all; try omega))

/-- Selection admits the row it selects. -/
theorem rowSelected_selectRow (p : Params) (r : DecCtx) (st : DecState) (x : Byte) :
    rowSelected p r st (selectRow p r st x) = true := by
  cases st <;> simp only [selectRow] <;> (try split_ifs) <;> simp_all [rowSelected]
  all_goals grind

/-- Inside FEED the guard of a row never refuses. -/
theorem selects_selectRow (s : State) (x : Byte) :
    s.selects (selectRow s.cfg s.decCtx s.state x) = true := rowSelected_selectRow ..

/-- Everything a FEED does. -/
theorem execFeed_effect (s : State) (x : Byte) : FeedEffect s x (execFeed x s) := by
  have hsel := selects_selectRow s x
  have row : ∀ {i : Instr} {o : Res}, s.selects i = true → FeedEffect s x o →
      FeedEffect s x (onRow i s o) := fun h ho => by rwa [onRow_of_selected h]
  rw [execFeed_eq_selectRow]
  cases h : s.state <;> simp only [selectRow, h] at hsel ⊢
  case sync1 =>
    split_ifs at hsel ⊢
    · exact row hsel (.sync h ‹_›)
    · exact row hsel (.idle h ‹_› ‹_›)
    · exact row hsel (.noise h ‹_› ‹_›)
  case sync2 =>
    split_ifs at hsel ⊢
    · exact row hsel (.match2 h ‹_›)
    · exact row hsel (.miss2 h ‹_›)
  case cls => exact row hsel (.cls h)
  case id => exact row hsel (.id h)
  case length1 => exact row hsel (.length1 h)
  case length2 =>
    split_ifs at hsel ⊢
    · rename_i h2
      obtain ⟨rfl, -⟩ := h2
      exact row hsel (.length2 h)
    · exact row hsel (.length2 h)
  case payload =>
    have store : s.cnt.toNat < s.cap.toNat → storePayload x s = .next (s.stored x) := fun h1 => by
      simp [storePayload, memWrite, h1, State.stored, State.setResult]
    split_ifs at hsel ⊢ with h1
    · exact row hsel (.overrun h h1)
    · exact row hsel (store (by simpa using h1) ▸ .store h (by simpa using h1))
    · exact row hsel (store (by simpa using h1) ▸ .store h (by simpa using h1))
  case chksum1 =>
    split_ifs at hsel ⊢
    · exact row hsel (.match1 h ‹_›)
    · exact row hsel (.miss1 h ‹_›)
  case chksum2 =>
    split_ifs at hsel ⊢
    · exact row hsel (.accept h ‹_›)
    · refine row hsel ?_
      cases hc : s.cfg.ck2Strict
      · exact .lenient h ‹_› hc
      · exact .strict h ‹_› hc

end Sys2Proof.Machine
end

