-- ==== Sys2Proof/Laws/Frame.lean ====
section
/-!
SUPPORT. Feeding in bulk: each line of 41_decoder.md R131 as an equation for FEED, and from them what the
header and the payload of a frame do to a hunting decoder.
-/

namespace Sys2Proof.Machine

variable {s : State} {x : Byte}

/-! ### FEED, line by line -/

theorem feed_sync (h : s.state = .sync1) (hx : x = s.cfg.sync1) :
    execFeed x s = .next { s with idleRun := 0, state := .sync2, feedRes := .parsing } := by
  have e := execFeed_effect s x
  generalize execFeed x s = o at e ⊢
  cases e <;> simp_all

theorem feed_idle (h : s.state = .sync1) (hx : x ≠ s.cfg.sync1) (hi : x = s.cfg.idle) :
    execFeed x s = .next { s with idleRun := satInc16 s.idleRun, feedRes := .parsing } := by
  have e := execFeed_effect s x
  generalize execFeed x s = o at e ⊢
  cases e <;> simp_all

theorem feed_noise (h : s.state = .sync1) (hx : x ≠ s.cfg.sync1) (hi : x ≠ s.cfg.idle) :
    execFeed x s = .next { s with idleRun := 0, feedRes := .parsing } := by
  have e := execFeed_effect s x
  generalize execFeed x s = o at e ⊢
  cases e <;> simp_all

theorem feed_match2 (h : s.state = .sync2) (hx : x = s.cfg.sync2) :
    execFeed x s = .next { s with state := .cls, feedRes := .parsing } := by
  have e := execFeed_effect s x
  generalize execFeed x s = o at e ⊢
  cases e <;> simp_all

theorem feed_cls (h : s.state = .cls) :
    execFeed x s = .next
      { s.foldByte x with msgId := zext16 x, state := .id, feedRes := .parsing } := by
  have e := execFeed_effect s x
  generalize execFeed x s = o at e ⊢
  cases e <;> simp_all

theorem feed_id (h : s.state = .id) :
    execFeed x s = .next
      { s.foldByte x with
        msgId := joinBytes (lowByte s.msgId) x, state := .length1, feedRes := .parsing } := by
  have e := execFeed_effect s x
  generalize execFeed x s = o at e ⊢
  cases e <;> simp_all

theorem feed_length1 (h : s.state = .length1) :
    execFeed x s = .next
      { s.foldByte x with len := zext16 x, state := .length2, feedRes := .parsing } := by
  have e := execFeed_effect s x
  generalize execFeed x s = o at e ⊢
  cases e <;> simp_all

theorem feed_length2 (h : s.state = .length2) :
    execFeed x s = .next
      { s.foldByte x with
        len := joinBytes x (lowByte s.len)
        state := if joinBytes x (lowByte s.len) = 0 then .chksum1 else .payload
        feedRes := .parsing } := by
  have e := execFeed_effect s x
  generalize execFeed x s = o at e ⊢
  cases e <;> simp_all

theorem feed_store (h : s.state = .payload) (hc : s.cnt.toNat < s.cap.toNat) :
    execFeed x s = .next (s.stored x) := by
  have e := execFeed_effect s x
  generalize execFeed x s = o at e ⊢
  cases e <;> simp_all
  omega

theorem feed_overrun (h : s.state = .payload) (hc : s.cap.toNat ≤ s.cnt.toNat) :
    execFeed x s = .next (s.framed .feOverrun) := by
  have e := execFeed_effect s x
  generalize execFeed x s = o at e ⊢
  cases e <;> simp_all
  omega

theorem feed_match1 (h : s.state = .chksum1) (hx : x = s.ckA) :
    execFeed x s = .next { s with state := .chksum2, feedRes := .parsing } := by
  have e := execFeed_effect s x
  generalize execFeed x s = o at e ⊢
  cases e <;> simp_all

theorem feed_miss1 (h : s.state = .chksum1) (hx : x ≠ s.ckA) :
    execFeed x s = .next (s.framed .feCkA) := by
  have e := execFeed_effect s x
  generalize execFeed x s = o at e ⊢
  cases e <;> simp_all

theorem feed_accept (h : s.state = .chksum2) (hx : x = s.ckB) :
    execFeed x s = execAccept s.msgId s.len s.clearDec := by
  have e := execFeed_effect s x
  generalize execFeed x s = o at e ⊢
  cases e <;> simp_all

theorem feed_strict (h : s.state = .chksum2) (hx : x ≠ s.ckB) (hs : s.cfg.ck2Strict = true) :
    execFeed x s = .next (s.framed .feCkB) := by
  have e := execFeed_effect s x
  generalize execFeed x s = o at e ⊢
  cases e <;> simp_all

theorem feed_lenient (h : s.state = .chksum2) (hx : x ≠ s.ckB) (hs : s.cfg.ck2Strict = false) :
    execFeed x s = execAccept s.msgId s.len (s.record .ckBIgnored).clearDec := by
  have e := execFeed_effect s x
  generalize execFeed x s = o at e ⊢
  cases e <;> simp_all

/-! ### Bytes in bulk -/

theorem ckFold_append (xs ys : List Byte) (a : Byte × Byte) :
    ckFold a (xs ++ ys) = ckFold (ckFold a xs) ys := by
  induction xs generalizing a with
  | nil => rfl
  | cons x xs ih => simp [ckFold, ih]

theorem execFeedBulk_append (xs ys : List Byte) (s : State) :
    execFeedBulk (xs ++ ys) s = andThen (execFeedBulk xs s) (execFeedBulk ys) := by
  induction xs generalizing s with
  | nil => rfl
  | cons x xs ih =>
    simp only [List.cons_append, execFeedBulk, andThen_assoc]
    congr 1
    funext u
    exact ih u

theorem execFeedBulk_concat (xs : List Byte) (x : Byte) (s : State) :
    execFeedBulk (xs ++ [x]) s = andThen (execFeedBulk xs s) (execFeed x) := by
  rw [execFeedBulk_append]
  congr 1
  funext u
  simp only [execFeedBulk]
  cases execFeed x u <;> rfl

/-- A hunting decoder takes the six bytes of a header. -/
theorem execFeedBulk_header {id n : Half} (h : s.state = .sync1) (ha : s.ckA = 0) (hb : s.ckB = 0) :
    execFeedBulk ([s.cfg.sync1, s.cfg.sync2] ++ frameHeader id n) s = .next
      { s with
        idleRun := 0, msgId := id, len := n, state := if n = 0 then .chksum1 else .payload
        feedRes := .parsing, ckA := (ckFold (0, 0) (frameHeader id n)).1
        ckB := (ckFold (0, 0) (frameHeader id n)).2 } := by
  simp only [List.cons_append, List.nil_append, frameHeader, execFeedBulk]
  rw [feed_sync h rfl, andThen_next, feed_match2 rfl (by rfl), andThen_next, feed_cls rfl,
    andThen_next, feed_id rfl, andThen_next, feed_length1 rfl, andThen_next, feed_length2 rfl, andThen_next]
  simp [State.foldByte, ha, hb, ckFold]

/-- In PAYLOAD a decoder stores the bytes that the declared length and the capacity leave room for. -/
theorem execFeedBulk_payload (ps : List Byte) (hr : s.feedRes = .parsing)
    (hst : s.state = if s.cnt = s.len then .chksum1 else .payload)
    (hl : s.cnt.toNat + ps.length ≤ s.len.toNat) (hc : s.cnt.toNat + ps.length ≤ s.cap.toNat) :
    execFeedBulk ps s = .next { s with
      pb := Memory.setFrom s.pb s.cnt.toNat ps
      cnt := BitVec.ofNat 16 (s.cnt.toNat + ps.length)
      ckA := (ckFold (s.ckA, s.ckB) ps).1, ckB := (ckFold (s.ckA, s.ckB) ps).2
      state := if s.cnt.toNat + ps.length = s.len.toNat then .chksum1 else .payload
      feedRes := .parsing } := by
  induction ps generalizing s with
  | nil =>
    have : s.cnt.toNat = s.len.toNat ↔ s.cnt = s.len := ⟨BitVec.eq_of_toNat_eq, fun h => h ▸ rfl⟩
    simp only [execFeedBulk, Memory.setFrom, List.length_nil, Nat.add_zero, ckFold, this, ← hst,
      ← hr, BitVec.ofNat_toNat, BitVec.setWidth_eq]
  | cons x ps ih =>
    simp only [List.length_cons] at hl hc
    have h : s.state = .payload := by
      rw [hst, if_neg]
      intro h0
      rw [h0] at hl
      omega
    have hs : (s.cnt + 1).toNat = s.cnt.toNat + 1 := succ_toNat (w := s.cap) (by omega)
    simp only [execFeedBulk]
    rw [feed_store h (by omega), andThen_next, ih (s := s.stored x) rfl rfl]
    · simp only [State.stored, Memory.setFrom, ckFold, hs, List.length_cons, State.foldByte,
        show s.cnt.toNat + 1 + ps.length = s.cnt.toNat + (ps.length + 1) by omega]
    · simp only [State.stored, State.foldByte_len, hs]; omega
    · simp only [State.stored, State.foldByte_cap, hs]; omega

/-- A decoder that has taken a whole frame but its two checksum bytes. -/
def State.atChecksum (s : State) (id n : Half) (payload : List Byte) : State :=
  { s with
    idleRun := 0
    msgId := id
    len := n
    cnt := n
    state := .chksum1
    feedRes := .parsing
    pb := Memory.setFrom s.pb 0 payload
    ckA := (frameChecksum id n payload).1
    ckB := (frameChecksum id n payload).2 }

/-- A hunting decoder takes a whole frame that fits, but its two checksum bytes. -/
theorem execFeedBulk_covered {id n : Half} (payload : List Byte) (h : s.state = .sync1)
    (ha : s.ckA = 0) (hb : s.ckB = 0) (hcnt : s.cnt = 0) (hl : payload.length = n.toNat)
    (hc : n.toNat ≤ s.cap.toNat) :
    execFeedBulk ([s.cfg.sync1, s.cfg.sync2] ++ (frameHeader id n ++ payload)) s =
      .next (s.atChecksum id n payload) := by
  rw [← List.append_assoc, execFeedBulk_append, execFeedBulk_header h ha hb, andThen_next,
    execFeedBulk_payload payload rfl]
  · simp [hcnt, hl, frameChecksum, ckInit, ckFold_append, State.atChecksum]
  · simp only [hcnt, eq_comm]
  · simp [hcnt, hl]
  · simp [hcnt, hl, hc]

/-- The first checksum byte of such a frame matches. -/
theorem execFeedBulk_coveredCkA {id n : Half} (payload : List Byte) (h : s.state = .sync1)
    (ha : s.ckA = 0) (hb : s.ckB = 0) (hcnt : s.cnt = 0) (hl : payload.length = n.toNat)
    (hc : n.toNat ≤ s.cap.toNat) :
    execFeedBulk ([s.cfg.sync1, s.cfg.sync2] ++ (frameHeader id n ++ payload) ++
      [(frameChecksum id n payload).1]) s =
      .next { s.atChecksum id n payload with state := .chksum2 } := by
  rw [execFeedBulk_concat, execFeedBulk_covered payload h ha hb hcnt hl hc, andThen_next]
  exact feed_match1 (s := s.atChecksum id n payload) rfl rfl

end Sys2Proof.Machine
end

