-- ==== Sys2Proof/Laws/Step.lean ====
section
/-!
SUPPORT. What a step takes up, case by case: `step` as an equation for each kind of work, so that no proof
unfolds the fetch.
-/

namespace Sys2Proof.Machine

variable {s : State}

/-- A waiting byte is fed, and a STOP latched (43_dispatcher.md R163). -/
theorem step_byte {x : Byte} {rest : List Byte} (h : s.chunk = x :: rest) :
    step s = mapNext (execFeed x { s with chunk := rest }) State.latchStop := by
  have hf : fetch s = .row (selectRow s.cfg s.decCtx s.state x) { s with chunk := rest } := by
    simp [fetch, h]
  simp only [step, hf, execFeed_eq_selectRow]
  rfl

/-- What is fetched for the head of the dispatcher's list. -/
def Cont.takeUp (c : Cont) (t : State) : Fetched :=
  match c with
  | .run i => .op i t
  | .loopUnlessFailed => .loop t
  | .scanUnlessFailed => .scanNext t
  | .finish k => .finish k t
  | .compare id e => .compare id e t

/-- What is fetched for the host's next action. -/
def HostAct.takeUp (a : HostAct) (t : State) : Fetched :=
  match a with
  | .cmd w => .op (decodeCmd w) t
  | .pbWrite a v => .hostWrite a v t
  | .pbRead a => .hostRead a t
  | .poll id => .op (.poll id) t
  | .poll1 id b => .op (.poll1 id b) t
  | .pollModifySend id p e => .op (.pollModifySend id p e) t

/-- Without waiting bytes the head of the dispatcher's list is next. -/
theorem fetch_todo {c : Cont} {rest : List Cont} (hc : s.chunk = []) (ht : s.todo = c :: rest) :
    fetch s = c.takeUp { s with todo := rest } := by
  cases s
  simp only at hc ht
  subst hc ht
  cases c <;> rfl

/-- With nothing of its own to do UBXC takes the host's next action. -/
theorem fetch_host {a : HostAct} {rest : List HostAct} (hc : s.chunk = []) (ht : s.todo = [])
    (hh : s.host = a :: rest) : fetch s = a.takeUp { s with host := rest } := by
  cases s
  simp only at hc ht hh
  subst hc ht hh
  cases a <;> rfl

theorem step_run {i : Instr} {rest : List Cont} (hc : s.chunk = []) (ht : s.todo = .run i :: rest) :
    step s = exec i { s with todo := rest } := by rw [step, fetch_todo hc ht]; rfl

theorem step_loop {rest : List Cont} (hc : s.chunk = []) (ht : s.todo = .loopUnlessFailed :: rest) :
    step s = loopUnlessFailed { s with todo := rest } := by rw [step, fetch_todo hc ht]; rfl

theorem step_scan {rest : List Cont} (hc : s.chunk = []) (ht : s.todo = .scanUnlessFailed :: rest) :
    step s = scanUnlessFailed { s with todo := rest } := by rw [step, fetch_todo hc ht]; rfl

theorem step_finish {k : CmdKind} {rest : List Cont} (hc : s.chunk = [])
    (ht : s.todo = .finish k :: rest) : step s = finishCommand k { s with todo := rest } := by
  rw [step, fetch_todo hc ht]; rfl

theorem step_compare {id : Half} {e : Edit} {rest : List Cont} (hc : s.chunk = [])
    (ht : s.todo = .compare id e :: rest) :
    step s = compareAndSend id e { s with todo := rest } := by rw [step, fetch_todo hc ht]; rfl

theorem step_cmd {w : BitVec 35} {rest : List HostAct} (hc : s.chunk = []) (ht : s.todo = [])
    (hh : s.host = .cmd w :: rest) : step s = exec (decodeCmd w) { s with host := rest } := by
  rw [step, fetch_host hc ht hh]; rfl

theorem step_pbWrite {a : Half} {v : Byte} {rest : List HostAct} (hc : s.chunk = [])
    (ht : s.todo = []) (hh : s.host = .pbWrite a v :: rest) :
    step s = hostWrite a.toNat v { s with host := rest } := by rw [step, fetch_host hc ht hh]; rfl

theorem step_pbRead {a : Half} {rest : List HostAct} (hc : s.chunk = []) (ht : s.todo = [])
    (hh : s.host = .pbRead a :: rest) : step s = hostRead a.toNat { s with host := rest } := by
  rw [step, fetch_host hc ht hh]; rfl

theorem step_idle (hc : s.chunk = []) (ht : s.todo = []) (hh : s.host = []) : step s = .next s := by
  cases s
  simp only at hc ht hh
  subst hc ht hh
  rfl

/-! ### Operations the steps are made of -/

/-- ENCODE answers next only inside PB. -/
theorem execEncodeFrame_eq_next {id n : Half} {t : State} (h : execEncodeFrame id n s = .next t) :
    n.toNat ≤ s.cap.toNat ∧
      t = { s.setCkPair .tx (frameChecksum id n (s.pbBytes n.toNat)) with
        txFrame := frameBytes s.cfg id n (s.pbBytes n.toNat) } := by
  unfold execEncodeFrame at h
  split at h
  · obtain ⟨hn, rfl⟩ := memReadUpTo_eq_ok.mp ‹_›
    cases h
    exact ⟨hn, rfl⟩
  · simp at h

theorem execEncodeFrame_of_le {id n : Half} (h : n.toNat ≤ s.cap.toNat) :
    execEncodeFrame id n s = .next { s.setCkPair .tx (frameChecksum id n (s.pbBytes n.toNat)) with
      txFrame := frameBytes s.cfg id n (s.pbBytes n.toNat) } := by
  simp [execEncodeFrame, memReadUpTo_of_le h]

/-- What the host's compare can do (44_command_idiom.md R190). -/
theorem compareAndSend_eq_next {id : Half} {e : Edit} {t : State}
    (h : compareAndSend id e s = .next t) :
    s.dphase = .idle ∧ (t = s ∨ (s.outcome = .ok ∧ s.rxLen.toNat ≤ s.cap.toNat ∧
      t = State.push { s with pb := Memory.setFrom s.pb 0 (editApply e (s.pbBytes s.rxLen.toNat)) }
        [.run (.sendWaitAck id s.rxLen)])) := by
  unfold compareAndSend at h
  split at h
  · simp at h
  refine ⟨not_not.mp ‹_›, ?_⟩
  split at h
  · cases h
    exact .inl rfl
  split at h
  · simp at h
  obtain ⟨hn, rfl⟩ := memReadUpTo_eq_ok.mp ‹_›
  split at h
  · cases h
    exact .inr ⟨not_not.mp ‹_›, hn, rfl⟩
  · cases h
    exact .inl rfl

/-- Every command word is a row of the CMD format. -/
@[simp] theorem decodeCmd_format (w : BitVec 35) : (decodeCmd w).format = .cmd := by
  unfold decodeCmd
  dsimp only
  split <;> rfl

end Sys2Proof.Machine
end

