-- ==== Sys2Proof/Laws/Invariant.lean ====
section
/-!
SUPPORT. The invariant, operation by operation: an update that leaves the decoder alone keeps it, and so
does every FEED.
-/

namespace Sys2Proof.Machine

variable {s t : State}

/-- An update that leaves the decoder's per-frame registers and the capacity alone (or clears the idle
count) keeps the invariant, if it keeps the parts about PB, `rx_len` and the control. -/
theorem State.Inv.of_sameDecoder (hi : s.Inv) (hcfg : t.cfg = s.cfg) (hst : t.state = s.state)
    (ha : t.ckA = s.ckA) (hb : t.ckB = s.ckB) (hid : t.msgId = s.msgId) (hlen : t.len = s.len)
    (hcnt : t.cnt = s.cnt) (hcap : t.cap = s.cap) (hidle : t.idleRun = s.idleRun ∨ t.idleRun = 0)
    (hpb : Memory.wf t.pb = true) (hrx : t.rxLen.toNat ≤ s.cap.toNat)
    (hinit : t.isBusy = true → t.inited = true) (hctl : controlOk t.cap t.dphase t.todo = true)
    (hchunk : t.chunk ≠ [] → t.isBusy = true) : t.Inv where
  cfgValid := hcfg ▸ hi.cfgValid
  idleOnlyHunting := by
    rw [hst]
    rcases hidle with h | h <;> rw [h]
    · exact hi.idleOnlyHunting
    · exact fun _ => rfl
  huntingClean := by rw [hst, ha, hb, hid, hlen, hcnt]; exact hi.huntingClean
  classFresh := by rw [hst, ha, hb]; exact hi.classFresh
  headerUncounted := by rw [hst, hcnt]; exact hi.headerUncounted
  payloadOpen := by rw [hst, hlen, hcnt, hcap]; exact hi.payloadOpen
  payloadComplete := by rw [hst, hlen, hcnt, hcap]; exact hi.payloadComplete
  headerFolded := by rw [hst, ha, hb, hid, hlen]; exact hi.headerFolded
  memoryWf := hpb
  rxLenFits := hcap ▸ hrx
  busyInited := hinit
  control := hctl
  chunkBusy := hchunk

/-- RESET_DEC keeps the invariant. -/
theorem State.Inv.clearDec (hi : s.Inv) : s.clearDec.Inv where
  cfgValid := hi.cfgValid
  idleOnlyHunting := fun _ => rfl
  huntingClean := fun _ => ⟨rfl, rfl, rfl, rfl, rfl⟩
  classFresh := by simp [State.clearDec]
  headerUncounted := by simp [State.clearDec]
  payloadOpen := by simp [State.clearDec]
  payloadComplete := by simp [State.clearDec]
  headerFolded := by simp [State.clearDec]
  memoryWf := hi.memoryWf
  rxLenFits := hi.rxLenFits
  busyInited := hi.busyInited
  control := hi.control
  chunkBusy := hi.chunkBusy

theorem State.Inv.record (hi : s.Inv) (e : TraceEvent) : (s.record e).Inv :=
  hi.of_sameDecoder rfl rfl rfl rfl rfl rfl rfl rfl (.inl rfl) hi.memoryWf hi.rxLenFits
    hi.busyInited hi.control hi.chunkBusy

theorem State.Inv.setResult (hi : s.Inv) (r : FeedResult) : (s.setResult r).Inv :=
  hi.of_sameDecoder rfl rfl rfl rfl rfl rfl rfl rfl (.inl rfl) hi.memoryWf hi.rxLenFits
    hi.busyInited hi.control hi.chunkBusy

theorem State.Inv.latchStop (hi : s.Inv) : s.latchStop.Inv := by
  unfold State.latchStop
  split
  · exact hi.of_sameDecoder rfl rfl rfl rfl rfl rfl rfl rfl (.inl rfl) hi.memoryWf hi.rxLenFits
      hi.busyInited hi.control hi.chunkBusy
  · exact hi

/-- A framing error keeps the invariant. -/
theorem State.Inv.framed (hi : s.Inv) (e : TraceEvent) : (s.framed e).Inv :=
  (hi.record e).clearDec.setResult .parsing

/-- ACCEPT of a frame that fits keeps the invariant. -/
theorem State.Inv.accept {id n : Half} (hi : s.Inv) (hn : n.toNat ≤ s.cap.toNat)
    (h : execAccept id n s = .next t) : t.Inv := by
  obtain ⟨m, l, r, d, a, f, rfl, -, hl, -⟩ := execAccept_shape h
  refine hi.of_sameDecoder rfl rfl rfl rfl rfl rfl rfl rfl (.inl rfl) hi.memoryWf ?_ hi.busyInited
    hi.control hi.chunkBusy
  rcases hl with rfl | rfl
  · exact hi.rxLenFits
  · exact hn

/-- Every FEED keeps the invariant. -/
theorem State.Inv.feed {x : Byte} (hi : s.Inv) (h : execFeed x s = .next t) : t.Inv := by
  have e := execFeed_effect s x
  rw [h] at e
  generalize ho : (Host.Outcome.next t : Res) = o at e
  have hi' := hi
  obtain ⟨h1, h2, h3, h4, h5, h6, h7, h8, h9, h10, h11, h12, h13⟩ := hi'
  cases e
  case accept hs hx => exact hi.clearDec.accept (h7 (.inr hs)).2 ho.symm
  case lenient hs hx _ => exact (hi.record _).clearDec.accept (h7 (.inr hs)).2 ho.symm
  all_goals cases ho
  case miss2 | overrun | miss1 | strict => exact hi.framed _
  case sync hs hx =>
    exact ⟨h1, by simp, by simp [h3 (.inl hs)], by simp, by simp, by simp, by simp, by simp, h9,
      h10, h11, h12, h13⟩
  case idle hs hx _ | noise hs hx _ =>
    exact ⟨h1, by simp [hs], by simp [h3 (.inl hs)], by simp [hs], by simp [hs], by simp [hs],
      by simp [hs], by simp [hs], h9, h10, h11, h12, h13⟩
  case match2 hs hx =>
    have c := h3 (.inr hs)
    exact ⟨h1, fun _ => h2 (by simp [hs]), by simp, by simp [c], by simp [c], by simp, by simp,
      by simp, h9, h10, h11, h12, h13⟩
  case cls hs =>
    have a := h4 hs
    have b := h5 (.inl hs)
    have c := h2 (by simp [hs])
    exact ⟨h1, by simp [c], by simp, by simp, by simp [b], by simp, by simp,
      by simp [ckFold, State.foldByte, a, ckInit], h9, h10, h11, h12, h13⟩
  case id hs =>
    have a := (h8.1 hs).2
    have b := h5 (.inr (.inl hs))
    have c := h2 (by simp [hs])
    exact ⟨h1, by simp [c], by simp, by simp, by simp [b], by simp, by simp,
      by simp [State.foldByte, a, ckFold], h9, h10, h11, h12, h13⟩
  case length1 hs =>
    have a := h8.2.1 hs
    have b := h5 (.inr (.inr (.inl hs)))
    have c := h2 (by simp [hs])
    exact ⟨h1, by simp [c], by simp, by simp, by simp [b], by simp, by simp,
      by simp [State.foldByte, a, ckFold], h9, h10, h11, h12, h13⟩
  case length2 hs =>
    have b := h5 (.inr (.inr (.inr hs)))
    have c := h2 (by simp [hs])
    by_cases hz : joinBytes x (lowByte s.len) = 0
    · simp only [hz, if_true]
      exact ⟨h1, by simp [c], by simp, by simp, by simp, by simp, by simp [b], by simp, h9, h10,
        h11, h12, h13⟩
    · have : 1 ≤ (joinBytes x (lowByte s.len)).toNat :=
        Nat.pos_of_ne_zero fun h => hz (BitVec.eq_of_toNat_eq h)
      simp only [hz, if_false]
      exact ⟨h1, by simp [c], by simp, by simp, by simp, by simp [b, this]; omega, by simp, by simp,
        h9, h10, h11, h12, h13⟩
  case store hs hc =>
    have c := h2 (by simp [hs])
    have ⟨b1, b2, b3⟩ := h6 hs
    have e1 : (s.cnt + 1).toNat = s.cnt.toNat + 1 := succ_toNat hc
    have m := Memory.wf_set s.pb s.cnt.toNat x h9
    by_cases hz : s.cnt + 1 = s.len
    · simp only [State.stored, hz, if_true]
      have : s.len.toNat = s.cnt.toNat + 1 := by rw [← hz, e1]
      exact ⟨h1, by simp [c], by simp, by simp, by simp, by simp, by simp; omega, by simp, m, h10,
        h11, h12, h13⟩
    · simp only [State.stored, hz, if_false]
      have : s.len.toNat ≠ s.cnt.toNat + 1 := by
        rw [← e1]
        exact fun h => hz (BitVec.eq_of_toNat_eq h.symm)
      refine ⟨h1, by simp [c], by simp, by simp, by simp, fun _ => ?_, by simp, by simp, m, h10, h11,
        h12, h13⟩
      change 1 ≤ s.len.toNat ∧ (s.cnt + 1).toNat < s.len.toNat ∧ (s.cnt + 1).toNat ≤ s.cap.toNat
      omega
  case match1 hs hx =>
    have b := h7 (.inl hs)
    have c := h2 (by simp [hs])
    exact ⟨h1, by simp [c], by simp, by simp, by simp, by simp, by simp [b], by simp, h9, h10, h11,
      h12, h13⟩

/-- A list that only scans is fit for the send phase too. -/
theorem sendTodo_of_scanTodo {cap : Half} (cs : List Cont) (h : scanTodo cs = true) :
    sendTodo cap cs = true := by
  induction cs with
  | nil => simp [scanTodo] at h
  | cons c cs ih =>
    cases c with
    | run i => cases i <;> simp_all [scanTodo, sendTodo, scanItem]
    | _ => simpa [sendTodo] using h

/-- Between commands no byte waits. -/
theorem State.Inv.chunk_eq_nil (hi : s.Inv) (h : s.dphase = .idle) : s.chunk = [] := by
  by_contra hc
  have := hi.chunkBusy hc
  simp [State.isBusy, h] at this

/-- With an empty list UBXC is idle. -/
theorem State.Inv.idle_of_todo_nil (hi : s.Inv) (h : s.todo = []) : s.dphase = .idle := by
  have hc := hi.control
  rw [h] at hc
  cases hd : s.dphase <;> simp_all [controlOk, sendTodo, scanTodo]

/-! ### What the control part of the invariant says of the head of the list -/

variable {rest : List Cont}

/-- Any list that scans is fit for a phase that is not D_IDLE. -/
theorem controlOk_of_scanTodo {cap : Half} {d : DPhase} {cs : List Cont} (hd : d ≠ .idle)
    (h : scanTodo cs = true) : controlOk cap d cs = true := by
  cases d
  · exact absurd rfl hd
  · exact sendTodo_of_scanTodo cs h
  · exact h

theorem State.Inv.run_idle {i : Instr} (hi : s.Inv) (ht : s.todo = .run i :: rest)
    (hd : s.dphase = .idle) : (∃ id n, i = .sendWaitAck id n) ∧ idleTodo rest = true := by
  have hc := hi.control
  rw [ht, hd] at hc
  cases i <;> simp_all [controlOk, idleTodo, idleItem]

theorem State.Inv.run_busy {i : Instr} (hi : s.Inv) (ht : s.todo = .run i :: rest)
    (hd : s.dphase ≠ .idle) :
    (∃ st, i = .sessionBegin st ∧ controlOk s.cap s.dphase rest = true) ∨
    (∃ id n st, i = .exchange id n st ∧ s.dphase = .txrx ∧ n.toNat ≤ s.cap.toNat ∧
      scanTodo rest = true) ∨
    (∃ id n, i = .txrx id n ∧ s.dphase = .txrx ∧ n.toNat ≤ s.cap.toNat ∧ scanTodo rest = true) ∨
    (i = .sessionLoop ∧ scanTodo rest = true) ∨ (i = .readChunk ∧ scanTodo rest = true) ∨
    ∃ st, i = .scan st ∧ scanTodo rest = true := by
  have hc := hi.control
  rw [ht] at hc
  cases h : s.dphase
  · exact absurd h hd
  all_goals
    rw [h] at hc
    cases i <;> simp_all [controlOk, sendTodo, scanTodo, scanItem]

theorem State.Inv.loop_busy (hi : s.Inv) (ht : s.todo = .loopUnlessFailed :: rest) :
    s.dphase ≠ .idle ∧ scanTodo rest = true := by
  have hc := hi.control
  rw [ht] at hc
  cases h : s.dphase <;> simp_all [controlOk, idleTodo, idleItem, sendTodo, scanTodo, scanItem]

theorem State.Inv.scan_busy (hi : s.Inv) (ht : s.todo = .scanUnlessFailed :: rest) :
    s.dphase ≠ .idle ∧ scanTodo rest = true := by
  have hc := hi.control
  rw [ht] at hc
  cases h : s.dphase <;> simp_all [controlOk, idleTodo, idleItem, sendTodo, scanTodo, scanItem]

theorem State.Inv.finish_busy {k : CmdKind} (hi : s.Inv) (ht : s.todo = .finish k :: rest) :
    s.dphase ≠ .idle ∧ idleTodo rest = true := by
  have hc := hi.control
  rw [ht] at hc
  cases h : s.dphase <;> simp_all [controlOk, idleTodo, idleItem, sendTodo, scanTodo]

theorem State.Inv.compare_idle {id : Half} {e : Edit} (hi : s.Inv)
    (ht : s.todo = .compare id e :: rest) : s.dphase = .idle ∧ idleTodo rest = true := by
  have hc := hi.control
  rw [ht] at hc
  cases h : s.dphase <;> simp_all [controlOk, idleTodo, idleItem, sendTodo, scanTodo, scanItem]

/-! ### The second invariant: completions and results -/

@[simp] theorem endsNext_nil : endsNext [] = false := rfl

@[simp] theorem endsNext_finish (k : CmdKind) (cs : List Cont) : endsNext (.finish k :: cs) = true :=
  rfl

@[simp] theorem endsNext_run (i : Instr) (cs : List Cont) : endsNext (.run i :: cs) = false := rfl

@[simp] theorem endsNext_loop (cs : List Cont) : endsNext (.loopUnlessFailed :: cs) = false := rfl

@[simp] theorem endsNext_scan (cs : List Cont) : endsNext (.scanUnlessFailed :: cs) = false := rfl

@[simp] theorem endsNext_compare (id : Half) (e : Edit) (cs : List Cont) :
    endsNext (.compare id e :: cs) = false := rfl

/-- Between commands no completion is next. -/
theorem endsNext_of_idleTodo {cs : List Cont} (h : idleTodo cs = true) : endsNext cs = false := by
  cases cs with
  | nil => rfl
  | cons c cs => cases c <;> simp_all [idleTodo, idleItem]

/-- What the shape of a list says of its tail. -/
theorem completionsAfterResults_cons {c : Cont} {cs : List Cont} :
    completionsAfterResults (c :: cs) = true ↔
      completionsAfterResults cs = true ∧ (resultItem c = true ∨ endsNext cs = false) := by
  simp [completionsAfterResults, and_comm]

/-- With no completion next only the shape is left to show. -/
theorem State.SessionInv.of_not_endsNext (h : completionsAfterResults s.todo = true)
    (he : endsNext s.todo = false) : s.SessionInv := ⟨h, by simp [he]⟩

/-- A waiting byte means that no completion is next. -/
theorem State.SessionInv.endsNext_of_chunk (hs : s.SessionInv) (hc : s.chunk ≠ []) :
    endsNext s.todo = false := by
  by_contra h
  exact hc (hs.result (by simpa using h)).1

end Sys2Proof.Machine
end

