-- ==== Sys2Proof/Laws/PerInstr.lean ====
section
/-!
SUPPORT. A statement about every instruction as syntax, one lemma per constructor: whether the encoder
gives it a word, and in which of the four encoding spaces (30_encoding.md).
-/

namespace Sys2Proof.Laws.EncodeFormat

/-- An instruction has a word exactly when its row stands in an encoding space of spec/opcode_table.json,
and the word stands in that space; micro-operations and pseudo-instructions have none. -/
def Statement (i : Instr) : Prop :=
  ∀ p : Params, (encode p i).map Code.format =
    if i.format = .micro ∨ i.format = .pseudo then none else some i.format

theorem s1Sync : Statement (.s1Sync) := fun _ => rfl
theorem s1Idle : Statement (.s1Idle) := fun _ => rfl
theorem s1Other (x : Byte) : Statement (.s1Other x) := fun _ => rfl
theorem s2Match : Statement (.s2Match) := fun _ => rfl
theorem s2Miss (x : Byte) : Statement (.s2Miss x) := fun _ => rfl
theorem decClass (x : Byte) : Statement (.decClass x) := fun _ => rfl
theorem decId (x : Byte) : Statement (.decId x) := fun _ => rfl
theorem len1 (x : Byte) : Statement (.len1 x) := fun _ => rfl
theorem len2Zero : Statement (.len2Zero) := fun _ => rfl
theorem len2Nz (x : Byte) : Statement (.len2Nz x) := fun _ => rfl
theorem payOverrun (x : Byte) : Statement (.payOverrun x) := fun _ => rfl
theorem payStore (x : Byte) : Statement (.payStore x) := fun _ => rfl
theorem payLast (x : Byte) : Statement (.payLast x) := fun _ => rfl
theorem ck1Match (x : Byte) : Statement (.ck1Match x) := fun _ => rfl
theorem ck1Miss (x : Byte) : Statement (.ck1Miss x) := fun _ => rfl
theorem ck2Match (x : Byte) : Statement (.ck2Match x) := fun _ => rfl
theorem ck2Miss (x : Byte) : Statement (.ck2Miss x) := fun _ => rfl
theorem init (api : Bool) (cap : Half) : Statement (.init api cap) := fun _ => rfl
theorem sendNoWait (id n : Half) : Statement (.sendNoWait id n) := fun _ => rfl
theorem sendWaitReply (id n : Half) : Statement (.sendWaitReply id n) := fun _ => rfl
theorem sendWaitAck (id n : Half) : Statement (.sendWaitAck id n) := fun _ => rfl
theorem readAll : Statement (.readAll) := fun _ => rfl
theorem cmdReserved5 : Statement (.cmdReserved5) := fun _ => rfl
theorem cmdReserved6 : Statement (.cmdReserved6) := fun _ => rfl
theorem cmdReserved7 : Statement (.cmdReserved7) := fun _ => rfl
theorem stratNone : Statement (.stratNone) := fun _ => rfl
theorem stratMatchReply (id n : Half) : Statement (.stratMatchReply id n) := fun _ => rfl
theorem stratMatchAcknak (id n : Half) : Statement (.stratMatchAcknak id n) := fun _ => rfl
theorem msgidAckAck (n : Half) : Statement (.msgidAckAck n) := fun _ => rfl
theorem msgidAckNak (n : Half) : Statement (.msgidAckNak n) := fun _ => rfl
theorem feed (x : Byte) : Statement (.feed x) := fun _ => rfl
theorem resetDec : Statement (.resetDec) := fun _ => rfl
theorem ckInit (p : CkPair) : Statement (.ckInit p) := fun _ => rfl
theorem ckUpdate (p : CkPair) (x : Byte) : Statement (.ckUpdate p x) := fun _ => rfl
theorem accept (id n : Half) : Statement (.accept id n) := fun _ => rfl
theorem apiDeliver (id n : Half) : Statement (.apiDeliver id n) := fun _ => rfl
theorem encodeFrame (id n : Half) : Statement (.encodeFrame id n) := fun _ => rfl
theorem txrx (id n : Half) : Statement (.txrx id n) := fun _ => rfl
theorem feedChunk (c : List Byte) : Statement (.feedChunk c) := fun _ => rfl
theorem readChunk : Statement (.readChunk) := fun _ => rfl
theorem sessionBegin (st : Strategy) : Statement (.sessionBegin st) := fun _ => rfl
theorem sessionLoop : Statement (.sessionLoop) := fun _ => rfl
theorem exchange (id n : Half) (st : Strategy) : Statement (.exchange id n st) := fun _ => rfl
theorem scan (st : Strategy) : Statement (.scan st) := fun _ => rfl
theorem ckFold (p : CkPair) (xs : List Byte) : Statement (.ckFold p xs) := fun _ => rfl
theorem feedBulk (xs : List Byte) : Statement (.feedBulk xs) := fun _ => rfl
theorem pollModifySend (id : Half) (poll : Option Byte) (e : Edit) : Statement (.pollModifySend id poll e) := fun _ => rfl
theorem poll (id : Half) : Statement (.poll id) := fun _ => rfl
theorem poll1 (id : Half) (b : Byte) : Statement (.poll1 id b) := fun _ => rfl

end Sys2Proof.Laws.EncodeFormat
end

