-- ==== Sys2Proof/Laws/Run.lean ====
section
/-!
SUPPORT. Runs of several steps, and the chunk buffer: a FEED neither reads nor writes it, so the bytes
still waiting do not matter to the one being fed.
-/

namespace Sys2Proof.Machine

variable {s t : State}

/-! ### Runs -/

@[simp] theorem runSteps_zero (s : State) : runSteps 0 s = .next s := rfl

theorem runSteps_succ (k : Nat) (s : State) :
    runSteps (k + 1) s = andThen (step s) (runSteps k) := rfl

theorem runSteps_add (j k : Nat) (s : State) :
    runSteps (j + k) s = andThen (runSteps j s) (runSteps k) := by
  induction j generalizing s with
  | zero => simp
  | succ j ih =>
    rw [show j + 1 + k = (j + k) + 1 by omega, runSteps_succ, runSteps_succ, andThen_assoc]
    congr 1
    funext u
    exact ih u

/-- One more step at the front of a run. -/
theorem runSteps_of_step {k : Nat} {o : Res} (h : step s = .next t) (hr : runSteps k t = o) :
    runSteps (k + 1) s = o := by rw [runSteps_succ, h, andThen_next, hr]

/-- Runs compose. -/
theorem runSteps_trans {j k : Nat} {o : Res} (h : runSteps j s = .next t)
    (hr : runSteps k t = o) : runSteps (j + k) s = o := by rw [runSteps_add, h, andThen_next, hr]

/-- The host's run, one step unfolded, for any machine. -/
theorem core_run_next (M : Host.Core) (k : Nat) {s t : M.State} (h : M.step s = .next t) :
    M.run (k + 1) s = M.run k t := by simp only [Host.Core.run, h]

theorem core_run_fault (M : Host.Core) (k : Nat) {s : M.State} {r : M.Fault}
    (h : M.step s = .fault r) : M.run (k + 1) s = .fault r := by simp only [Host.Core.run, h]

theorem core_run_refused (M : Host.Core) (k : Nat) {s : M.State} {r : M.Refusal}
    (h : M.step s = .refused r) : M.run (k + 1) s = .refused r := by simp only [Host.Core.run, h]

/-- Runs in the model's types are the host's runs. -/
theorem runSteps_eq_core (k : Nat) (s : State) : runSteps k s = core.run k s := by
  induction k generalizing s with
  | zero => rfl
  | succ k ih =>
    rw [runSteps_succ]
    cases hs : step s with
    | next t => exact (ih t).trans (core_run_next core k hs).symm
    | fault r => exact (core_run_fault core k hs).symm
    | refused r => exact (core_run_refused core k hs).symm

/-! ### The chunk buffer -/

theorem matchAcknowledged_chunk (b : Bool) (n : Half) (s : State) (c : List Byte) :
    matchAcknowledged b n { s with chunk := c } =
      mapNext (matchAcknowledged b n s) fun t => { t with chunk := c } := by
  unfold matchAcknowledged
  rw [show memReadUpTo s.cfg.ackLen { s with chunk := c } =
    memReadUpTo s.cfg.ackLen s from rfl]
  split
  · cases memReadUpTo s.cfg.ackLen s with
    | ok bs => simp only; split <;> rfl
    | error e => rfl
  · rfl

theorem runStrategy_chunk (id n : Half) (s : State) (c : List Byte) :
    runStrategy id n { s with chunk := c } =
      mapNext (runStrategy id n s) fun t => { t with chunk := c } := by
  unfold runStrategy
  simp only
  split
  · rfl
  · unfold execStratMatchReply
    simp only
    split <;> rfl
  · unfold execStratMatchAcknak execMsgidAckAck execMsgidAckNak
    simp only [matchAcknowledged_chunk]
    split_ifs <;> rfl

theorem execAccept_chunk (id n : Half) (s : State) (c : List Byte) :
    execAccept id n { s with chunk := c } =
      mapNext (execAccept id n s) fun t => { t with chunk := c } := by
  unfold execAccept
  rw [show ({ s with chunk := c } : State).record (.accepted id n) =
    { s.record (.accepted id n) with chunk := c } from rfl, runStrategy_chunk]
  cases h : runStrategy id n (s.record (.accepted id n)) with
  | next u =>
    simp only [mapNext_next, andThen_next]
    split
    · unfold execApiDeliver deliver
      rw [show ({ u with chunk := c } : State).nextApi = u.nextApi from rfl]
      simp only
      split
      · cases u.nextApi <;> rfl
      · rfl
    · rfl
  | fault r => rfl
  | refused r => rfl

/-- A FEED has one effect. -/
theorem FeedEffect.unique {x : Byte} {o o' : Res} (h : FeedEffect s x o) (h' : FeedEffect s x o') :
    o = o' := by
  cases h <;> cases h' <;> first | rfl | (exfalso; simp_all; try omega)

theorem execFeed_chunk (x : Byte) (s : State) (c : List Byte) :
    execFeed x { s with chunk := c } = mapNext (execFeed x s) fun t => { t with chunk := c } := by
  have e := execFeed_effect s x
  have e' := execFeed_effect { s with chunk := c } x
  generalize execFeed x s = o at e ⊢
  apply e'.unique
  cases e
  case accept h1 h2 => rw [← execAccept_chunk]; exact .accept (s := { s with chunk := c }) h1 h2
  case lenient h1 h2 h3 =>
    rw [← execAccept_chunk]
    exact .lenient (s := { s with chunk := c }) h1 h2 h3
  case sync h1 h2 => exact .sync h1 h2
  case idle h1 h2 h3 => exact .idle h1 h2 h3
  case noise h1 h2 h3 => exact .noise h1 h2 h3
  case match2 h1 h2 => exact .match2 h1 h2
  case miss2 h1 h2 => exact .miss2 h1 h2
  case cls h1 => exact .cls h1
  case id h1 => exact .id h1
  case length1 h1 => exact .length1 h1
  case length2 h1 => exact .length2 h1
  case overrun h1 h2 => exact .overrun h1 h2
  case store h1 h2 => exact .store h1 h2
  case match1 h1 h2 => exact .match1 h1 h2
  case miss1 h1 h2 => exact .miss1 h1 h2
  case strict h1 h2 h3 => exact .strict h1 h2 h3

theorem execFeed_keeps_chunk {x : Byte} (h : execFeed x s = .next t) : t.chunk = s.chunk := by
  have e : execFeed x s = mapNext (execFeed x s) fun t => { t with chunk := s.chunk } :=
    execFeed_chunk x s s.chunk
  rw [h] at e
  simp only [mapNext_next, Host.Outcome.next.injEq] at e
  rw [e]

theorem State.latchStop_withChunk (s : State) (c : List Byte) :
    State.latchStop { s with chunk := c } = { s.latchStop with chunk := c } := by
  unfold State.latchStop
  split <;> rfl

end Sys2Proof.Machine
end

