-- ==== Sys2Proof/Tests/Slice0.lean ====
section
/-!
SUPPORT. The model's own tests. Expected values come from spec/95_test_vectors.md (V<n>), from the opcode
table's encodings, or are worked out by hand from a rule; never from the model. Each test is one step. Then
the witnesses: for each statement with hypotheses, a state and operands that meet them, clause by clause.
-/

namespace Sys2Proof.Tests

open Sys2Proof Sys2Proof.Machine

/-- The parameters of 95_test_vectors.md. -/
def cfg : Params := ⟨0xB5, 0x62, 0xFF, 50, 16, true, 0x0501, 0x0500, 0, 1⟩

/-- The same with CK2_STRICT = 0. -/
def lenient : Params := { cfg with ck2Strict := false }

/-- As after `INIT(0, 8)`: hunting, idle, no consumer. -/
def ready : State := { State.reset with cfg := cfg, cap := 8, inited := true }

/-- As after `INIT(1, 8)`, the consumer answering CONTINUE four times. -/
def listening : State :=
  { ready with apiEn := true, api := [.cont, .cont, .cont, .cont] }

/-- In a decoder state, with the frame's registers. -/
def inFrame (st : DecState) (a b : Byte) (id n k : Half) : State :=
  { ready with state := st, ckA := a, ckB := b, msgId := id, len := n, cnt := k }

/-- What V32's columns show, and the trace. -/
structure View where
  state : DecState
  ck : Byte × Byte
  msgId : Half
  len : Half
  cnt : Half
  res : FeedResult
  trace : List TraceEvent
  deriving DecidableEq, Repr

/-- The view of an outcome, if it is a next state. -/
def view (o : Res) : Option View :=
  (nextState? o).map fun t =>
    ⟨t.state, (t.ckA, t.ckB), t.msgId, t.len, t.cnt, t.feedRes, t.trace⟩

/-- The view after one FEED. -/
def fed (x : Byte) (s : State) : Option View := view (exec (.feed x) s)

/-- What a strategy or a consumer answered and wrote (V52 to V59a). -/
def claim (o : Res) : Option (FeedResult × MatchResult × Half) :=
  (nextState? o).map fun t => (t.feedRes, t.matchResult, t.rxLen)

/-- Whether an outcome is a refusal, and which. -/
def refusal? (o : Res) : Option Refusal :=
  match o with
  | .next _ => none
  | .fault _ => none
  | .refused r => some r

/-! ### WellFormed refuses ill-formed terms -/

theorem test_wf_other_sync : (Instr.s1Other 0xB5).wellFormed cfg = false := by decide
theorem test_wf_other_idle : (Instr.s1Other 0xFF).wellFormed cfg = false := by decide
theorem test_wf_other_noise : (Instr.s1Other 0x00).wellFormed cfg = true := by decide
theorem test_wf_miss_sync2 : (Instr.s2Miss 0x62).wellFormed cfg = false := by decide
theorem test_wf_miss_sync1 : (Instr.s2Miss 0xB5).wellFormed cfg = true := by decide

theorem test_wf_chunk_too_long :
    (Instr.feedChunk (List.replicate 65544 0)).wellFormed cfg = false := by
  simp only [Instr.wellFormed, List.length_replicate]
  decide

theorem test_wf_chunk_longest :
    (Instr.feedChunk (List.replicate 65543 0)).wellFormed cfg = true := by
  simp only [Instr.wellFormed, List.length_replicate]
  decide

theorem test_wf_patch_not_rising :
    (Instr.pollModifySend 0x0608 none (.patch [(1, 0), (1, 2)])).wellFormed cfg = false := by decide

theorem test_wf_patch_past_payload :
    (Instr.pollModifySend 0x0608 none (.patch [(65535, 0)])).wellFormed cfg = false := by decide

theorem test_wf_patch_rising :
    (Instr.pollModifySend 0x0608 none (.patch [(0, 0xF4), (65534, 1)])).wellFormed cfg = true := by
  decide

/-! ### Decoding: words written out from the opcode table, four or sixteen bits a group -/

theorem test_decode_s1Sync :
    decodeDec cfg DecCtx.zero 0b0000_1011_0101 = .ok .s1Sync := by rfl
theorem test_decode_s1Idle :
    decodeDec cfg DecCtx.zero 0b0000_1111_1111 = .ok .s1Idle := by rfl
theorem test_decode_s1Other :
    decodeDec cfg DecCtx.zero 0b0000_0110_0010 = .ok (.s1Other 0x62) := by rfl
theorem test_decode_s2Match :
    decodeDec cfg DecCtx.zero 0b0001_0110_0010 = .ok .s2Match := by rfl
theorem test_decode_s2Miss :
    decodeDec cfg DecCtx.zero 0b0001_1011_0101 = .ok (.s2Miss 0xB5) := by rfl
theorem test_decode_class :
    decodeDec cfg DecCtx.zero 0b0010_0000_0110 = .ok (.decClass 0x06) := by rfl
theorem test_decode_id :
    decodeDec cfg DecCtx.zero 0b0011_0010_0100 = .ok (.decId 0x24) := by rfl
theorem test_decode_len1 :
    decodeDec cfg DecCtx.zero 0b0100_1111_1111 = .ok (.len1 0xFF) := by rfl
theorem test_decode_len2Zero :
    decodeDec cfg DecCtx.zero 0b0101_0000_0000 = .ok .len2Zero := by rfl
theorem test_decode_len2Nz_low_byte :
    decodeDec cfg ⟨4, 0, 8, 0, 0⟩ 0b0101_0000_0000 = .ok (.len2Nz 0x00) := by rfl
theorem test_decode_len2Nz_high_byte :
    decodeDec cfg DecCtx.zero 0b0101_0000_0001 = .ok (.len2Nz 0x01) := by rfl
theorem test_decode_payOverrun :
    decodeDec cfg ⟨9, 8, 8, 0, 0⟩ 0b0110_0000_0100 = .ok (.payOverrun 0x04) := by rfl
theorem test_decode_payStore :
    decodeDec cfg ⟨9, 7, 8, 0, 0⟩ 0b0110_0000_0100 = .ok (.payStore 0x04) := by rfl
theorem test_decode_payLast :
    decodeDec cfg ⟨8, 7, 8, 0, 0⟩ 0b0110_0000_0100 = .ok (.payLast 0x04) := by rfl
theorem test_decode_ck1Match :
    decodeDec cfg ⟨0, 0, 8, 0x2A, 0x84⟩ 0b0111_0010_1010 = .ok (.ck1Match 0x2A) := by rfl
theorem test_decode_ck1Miss :
    decodeDec cfg ⟨0, 0, 8, 0x2A, 0x84⟩ 0b0111_1000_0100 = .ok (.ck1Miss 0x84) := by rfl
theorem test_decode_ck2Match :
    decodeDec cfg ⟨0, 0, 8, 0x2A, 0x84⟩ 0b1000_1000_0100 = .ok (.ck2Match 0x84) := by rfl
theorem test_decode_ck2Miss :
    decodeDec cfg ⟨0, 0, 8, 0x2A, 0x84⟩ 0b1000_0010_1010 = .ok (.ck2Miss 0x2A) := by rfl

/-- `INIT(1, 64)` of P1, with the ignored bits 31 to 17 set. -/
theorem test_decode_init :
    decodeCmd 0b000_1111111111111111_0000000001000000 = .init true 64 := by rfl
theorem test_decode_sendNoWait :
    decodeCmd 0b001_0000011000100100_0000000000000000 = .sendNoWait 0x0624 0 := by rfl
theorem test_decode_sendWaitReply :
    decodeCmd 0b010_0000011000100100_0000000000000001 = .sendWaitReply 0x0624 1 := by rfl
theorem test_decode_sendWaitAck :
    decodeCmd 0b011_0000011000010001_0000000000000010 = .sendWaitAck 0x0611 2 := by rfl
theorem test_decode_readAll :
    decodeCmd 0b100_0000000000000000_0000000000000000 = .readAll := by rfl
theorem test_decode_reserved5 :
    decodeCmd 0b101_0000000000000001_1000000000000000 = .cmdReserved5 := by rfl
theorem test_decode_reserved6 :
    decodeCmd 0b110_0000000000000000_0000000000000000 = .cmdReserved6 := by rfl
theorem test_decode_reserved7 :
    decodeCmd 0b111_1111111111111111_1111111111111111 = .cmdReserved7 := by rfl

theorem test_decode_stratNone : decodeStrategy 0b00 0x0107 4 = .ok .stratNone := by rfl
theorem test_decode_stratMatchReply :
    decodeStrategy 0b01 0x0107 4 = .ok (.stratMatchReply 0x0107 4) := by rfl
theorem test_decode_stratMatchAcknak :
    decodeStrategy 0b10 0x0500 2 = .ok (.stratMatchAcknak 0x0500 2) := by rfl
theorem test_decode_strat_reserved :
    decodeStrategy 0b11 0x0500 2 = .error .reservedStrategy := by rfl
theorem test_decode_msgidAckAck :
    decodeMsgId cfg 0b00000101_00000001 2 = .ok (.msgidAckAck 2) := by rfl
theorem test_decode_msgidAckNak :
    decodeMsgId cfg 0b00000101_00000000 2 = .ok (.msgidAckNak 2) := by rfl
theorem test_decode_msgid_opaque :
    decodeMsgId cfg 0b00000110_00100100 2 = .error .opaqueMsgId := by rfl
theorem test_decode_state_reserved :
    decodeDec cfg DecCtx.zero 0b1001_0000_0000 = .error .reservedState := by rfl

/-! The opcode table's numbering of whole bytes. -/

theorem test_table_s1Sync : decodeTableWord 16 0x00B5 = some .s1Sync := by rfl
theorem test_table_class : decodeTableWord 16 0x0206 = some (.decClass 0x06) := by rfl
theorem test_table_ackAck : decodeTableWord 16 0x0501 = some (.msgidAckAck 0) := by rfl
theorem test_table_strategy : decodeTableWord 8 0x02 = some (.stratMatchAcknak 0 0) := by rfl
theorem test_table_command : decodeTableWord 40 0x0306110002 = some (.sendWaitAck 0x0611 2) := by rfl
theorem test_table_reserved_state : decodeTableWord 16 0x0900 = none := by rfl
theorem test_table_reserved_strategy : decodeTableWord 8 0x03 = none := by rfl

/-- A table word placed in the fetch position is what the next step runs. -/
theorem test_withFetchWord_init :
    (nextState? (step (State.reset.withFetchWord 40 0x0000010040))).map
      (fun t => (t.inited, t.apiEn, t.cap)) = some (true, true, 64) := by rfl

/-! ### The checksum engine -/

theorem test_ckInit :
    nextState? (exec (.ckInit .rx) { ready with ckA := 0x16, ckB := 0x65, txCkA := 1 }) =
      some { ready with txCkA := 1 } := by decide

/-- V18. -/
theorem test_ckUpdate_zero_byte :
    nextState? (exec (.ckUpdate .rx 0x00) { ready with ckA := 0x2A, ckB := 0x5A }) =
      some { ready with ckA := 0x2A, ckB := 0x84 } := by decide

/-- V19, in the transmit pair: both accumulators wrap. -/
theorem test_ckUpdate_wraps :
    nextState? (exec (.ckUpdate .tx 0x01) { ready with txCkA := 0xFF, txCkB := 0xFF }) =
      some { ready with txCkA := 0x00, txCkB := 0xFF } := by decide

/-- V8. -/
theorem test_ckFold_header :
    nextState? (exec (.ckFold .rx [0x06, 0x24, 0x00, 0x00]) ready) =
      some { ready with ckA := 0x2A, ckB := 0x84 } := by decide

/-- V9: the order matters to the second accumulator. -/
theorem test_ckFold_order :
    nextState? (exec (.ckFold .rx [0x24, 0x06, 0x00, 0x00]) ready) =
      some { ready with ckA := 0x2A, ckB := 0xA2 } := by decide

/-! ### The decoder: V32 row by row, then the framing errors -/

theorem test_s1Sync :
    (nextState? (exec .s1Sync { ready with idleRun := 3 })).map
      (fun t => (t.state, t.idleRun, t.feedRes)) = some (.sync2, 0, .parsing) := by decide

/-- V48's first bytes count. -/
theorem test_s1Idle_counts :
    (nextState? (exec .s1Idle { ready with idleRun := 2 })).map
      (fun t => (t.state, t.idleRun)) = some (.sync1, 3) := by decide

/-- The count saturates (00_scope.md R8). -/
theorem test_s1Idle_saturates :
    (nextState? (exec .s1Idle { ready with idleRun := 65535 })).map (·.idleRun) =
      some 65535 := by decide

theorem test_s1Other :
    (nextState? (exec (.s1Other 0x00) { ready with idleRun := 3 })).map
      (fun t => (t.state, t.idleRun)) = some (.sync1, 0) := by decide

theorem test_s2Match :
    view (exec .s2Match { ready with state := .sync2 }) =
      some ⟨.cls, (0, 0), 0, 0, 0, .parsing, []⟩ := by decide

/-- V47 byte 1: the second B5 is not taken as a new frame start. -/
theorem test_s2Miss_second_sync1 :
    view (exec (.s2Miss 0xB5) { ready with state := .sync2 }) =
      some ⟨.sync1, (0, 0), 0, 0, 0, .parsing, [.feSync2]⟩ := by decide

/-- V32 byte 2. -/
theorem test_class :
    view (exec (.decClass 0x01) (inFrame .cls 0 0 0 0 0)) =
      some ⟨.id, (0x01, 0x01), 0x0001, 0, 0, .parsing, []⟩ := by decide

/-- V32 byte 3: the class goes to the high byte. -/
theorem test_id :
    view (exec (.decId 0x07) (inFrame .id 0x01 0x01 0x0001 0 0)) =
      some ⟨.length1, (0x08, 0x09), 0x0107, 0, 0, .parsing, []⟩ := by decide

/-- V32 byte 4. -/
theorem test_len1 :
    view (exec (.len1 0x04) (inFrame .length1 0x08 0x09 0x0107 0 0)) =
      some ⟨.length2, (0x0C, 0x15), 0x0107, 4, 0, .parsing, []⟩ := by decide

/-- V7 and V8: the high byte 0 of a zero length. -/
theorem test_len2Zero :
    view (exec .len2Zero (inFrame .length2 0x2A 0x5A 0x0624 0 0)) =
      some ⟨.chksum1, (0x2A, 0x84), 0x0624, 0, 0, .parsing, []⟩ := by decide

/-- V32 byte 5. -/
theorem test_len2Nz_low :
    view (exec (.len2Nz 0x00) (inFrame .length2 0x0C 0x15 0x0107 4 0)) =
      some ⟨.payload, (0x0C, 0x21), 0x0107, 4, 0, .parsing, []⟩ := by decide

/-- By hand from R120: the second length byte is the high byte. -/
theorem test_len2Nz_high :
    view (exec (.len2Nz 0x01) (inFrame .length2 0x08 0x11 0x0107 0 0)) =
      some ⟨.payload, (0x09, 0x1A), 0x0107, 256, 0, .parsing, []⟩ := by decide

/-- V32 byte 6. -/
theorem test_payStore :
    view (exec (.payStore 0x01) (inFrame .payload 0x0C 0x21 0x0107 4 0)) =
      some ⟨.payload, (0x0D, 0x2E), 0x0107, 4, 1, .parsing, []⟩ ∧
    (nextState? (exec (.payStore 0x01) (inFrame .payload 0x0C 0x21 0x0107 4 0))).map (·.pb) =
      some [(0, 0x01)] := by decide

/-- V32 byte 9. -/
theorem test_payLast :
    view (exec (.payLast 0x04) (inFrame .payload 0x12 0x4F 0x0107 4 3)) =
      some ⟨.chksum1, (0x16, 0x65), 0x0107, 4, 4, .parsing, []⟩ ∧
    (nextState? (exec (.payLast 0x04) (inFrame .payload 0x12 0x4F 0x0107 4 3))).map (·.pb) =
      some [(3, 0x04)] := by decide

/-- V44 byte 10, at capacity 4: no checksum update, no store. -/
theorem test_payOverrun :
    view (exec (.payOverrun 0x01) { inFrame .payload 0x00 0x37 0x0608 6 4 with cap := 4 }) =
      some ⟨.sync1, (0, 0), 0, 0, 0, .parsing, [.feOverrun]⟩ ∧
    (nextState? (exec (.payOverrun 0x01)
      { inFrame .payload 0x00 0x37 0x0608 6 4 with cap := 4 })).map (·.pb) = some [] := by decide

/-- V32 byte 10. -/
theorem test_ck1Match :
    view (exec (.ck1Match 0x16) (inFrame .chksum1 0x16 0x65 0x0107 4 4)) =
      some ⟨.chksum2, (0x16, 0x65), 0x0107, 4, 4, .parsing, []⟩ := by decide

/-- V41 byte 10. -/
theorem test_ck1Miss :
    view (exec (.ck1Miss 0x17) (inFrame .chksum1 0x16 0x65 0x0107 4 4)) =
      some ⟨.sync1, (0, 0), 0, 0, 0, .parsing, [.feCkA]⟩ := by decide

/-- V32 byte 11: accepted and delivered; the consumer answers CONTINUE. -/
theorem test_ck2Match :
    view (exec (.ck2Match 0x65) { inFrame .chksum2 0x16 0x65 0x0107 4 4 with
      apiEn := true, api := [.cont] }) =
      some ⟨.sync1, (0, 0), 0, 0, 0, .cont, [.delivered 0x0107 4, .accepted 0x0107 4]⟩ := by decide

/-- V42 byte 11. -/
theorem test_ck2Miss_strict :
    view (exec (.ck2Miss 0x64) (inFrame .chksum2 0x16 0x65 0x0107 4 4)) =
      some ⟨.sync1, (0, 0), 0, 0, 0, .parsing, [.feCkB]⟩ := by decide

/-- V43 byte 11. -/
theorem test_ck2Miss_lenient :
    view (exec (.ck2Miss 0x64) { inFrame .chksum2 0x16 0x65 0x0107 4 4 with cfg := lenient }) =
      some ⟨.sync1, (0, 0), 0, 0, 0, .cont, [.accepted 0x0107 4, .ckBIgnored]⟩ := by decide

/-- R76 chooses by the byte: the matching checksum byte is no CK1_MISS. -/
theorem test_unselected_row_refused :
    refusal? (exec (.ck1Miss 0x16) (inFrame .chksum1 0x16 0x65 0x0107 4 4)) =
      some .rowNotSelected := by decide

theorem test_resetDec :
    nextState? (exec .resetDec { inFrame .payload 0x0D 0x2E 0x0107 4 1 with idleRun := 9 }) =
      some ready := by decide

/-- V32 byte 6, through FEED. -/
theorem test_feed_selects_payStore :
    fed 0x01 (inFrame .payload 0x0C 0x21 0x0107 4 0) =
      some ⟨.payload, (0x0D, 0x2E), 0x0107, 4, 1, .parsing, []⟩ := by decide

/-- V45 byte 6, through FEED, at capacity 0. -/
theorem test_feed_selects_payOverrun :
    fed 0x00 { inFrame .payload 0x18 0x4D 0x0611 1 0 with cap := 0 } =
      some ⟨.sync1, (0, 0), 0, 0, 0, .parsing, [.feOverrun]⟩ := by decide

/-- V40's first frame and V31, in bulk (S3, S4). -/
theorem test_feedBulk_corrupted_then_good :
    (nextState? (exec (.feedBulk
      [0xB5, 0x62, 0x01, 0x07, 0x04, 0x00, 0x01, 0x02, 0x13, 0x04, 0x16, 0x65,
       0xB5, 0x62, 0x01, 0x07, 0x04, 0x00, 0x01, 0x02, 0x03, 0x04, 0x16, 0x65]) listening)).map
      (fun t => (t.state, t.pb, t.trace)) =
      some (.sync1, [(0, 1), (1, 2), (2, 3), (3, 4)],
        [.delivered 0x0107 4, .accepted 0x0107 4, .feCkA]) := by rfl

/-- V44: an oversized frame, then V30. -/
theorem test_feedBulk_overrun_then_good :
    (nextState? (exec (.feedBulk
      [0xB5, 0x62, 0x06, 0x08, 0x06, 0x00, 0xE8, 0x03, 0x01, 0x00, 0x01, 0x00, 0x01, 0x39,
       0xB5, 0x62, 0x06, 0x24, 0x00, 0x00, 0x2A, 0x84]) { listening with cap := 4 })).map
      (fun t => (t.state, t.pb, t.trace)) =
      some (.sync1, [(0, 0xE8), (1, 0x03), (2, 0x01), (3, 0x00)],
        [.delivered 0x0624 0, .accepted 0x0624 0, .feOverrun]) := by rfl

/-! ### The strategies: V52 to V59a -/

/-- PB, the awaited id and the strategy of V52 to V56. -/
def acking (b1 : Byte) : State :=
  { ready with intCb := .matchAcknak, awaitId := 0x0624, pb := [(0, 0x06), (1, b1)] }

/-- V52: claimed; the consumer is attached and not asked. -/
theorem test_accept_ack :
    claim (exec (.accept 0x0501 2) { acking 0x24 with apiEn := true, api := [.silent] }) =
      some (.stop, .acked, 0) := by rfl

/-- V53: a foreign ACK goes to the consumer. -/
theorem test_accept_foreign_ack :
    view (exec (.accept 0x0501 2) { acking 0x01 with apiEn := true, api := [.cont] }) =
      some ⟨.sync1, (0, 0), 0, 0, 0, .cont, [.delivered 0x0501 2, .accepted 0x0501 2]⟩ := by rfl

/-- V54. -/
theorem test_stratMatchAcknak_nak :
    claim (exec (.stratMatchAcknak 0x0500 2) { acking 0x24 with rxLen := 5 }) =
      some (.stop, .naked, 5) := by rfl

/-- V56. -/
theorem test_stratMatchAcknak_other_id :
    claim (exec (.stratMatchAcknak 0x0624 2) (acking 0x24)) = some (.cont, .none, 0) := by rfl

/-- V55: one byte is too short. -/
theorem test_msgidAckAck_short :
    claim (exec (.msgidAckAck 1) (acking 0x24)) = some (.cont, .none, 0) := by rfl

theorem test_msgidAckAck :
    claim (exec (.msgidAckAck 2) (acking 0x24)) = some (.stop, .acked, 0) := by rfl

/-- R7, U17, R84: in another layout (class in byte 2, id in byte 0) the same event claims the frame from those
bytes, and two bytes are then too short. -/
def acking20 : State :=
  { acking 0x24 with
    cfg := { cfg with ackClassAt := 2, ackIdAt := 0 }
    pb := [(0, 0x24), (1, 0xEE), (2, 0x06)] }

theorem test_ack_other_layout :
    claim (exec (.stratMatchAcknak 0x0501 3) acking20) = some (.stop, .acked, 0) ∧
    claim (exec (.stratMatchAcknak 0x0501 2) acking20) = some (.cont, .none, 0) := by
  exact ⟨rfl, rfl⟩

theorem test_msgidAckNak :
    claim (exec (.msgidAckNak 2) (acking 0x24)) = some (.stop, .naked, 0) := by rfl

/-- V57. -/
theorem test_stratMatchReply :
    claim (exec (.stratMatchReply 0x0624 36) { ready with awaitId := 0x0624 }) =
      some (.stop, .replied, 36) := by decide

/-- V58's strategy: another id. -/
theorem test_stratMatchReply_other_id :
    claim (exec (.stratMatchReply 0x0107 4) { ready with awaitId := 0x0624 }) =
      some (.cont, .none, 0) := by decide

/-- V59. -/
theorem test_stratNone : claim (exec .stratNone ready) = some (.cont, .none, 0) := by decide

/-- V58: the consumer stops the session. -/
theorem test_apiDeliver_stop :
    claim (exec (.apiDeliver 0x0107 4) { listening with api := [.stop] }) =
      some (.stop, .none, 0) := by decide

/-- The codes of R81: 0 = CONTINUE, 1 = STOP; a consumer that never answers sends none. -/
theorem test_api_answer_codes :
    ApiAnswer.cont.code = some 0b0 ∧ ApiAnswer.stop.code = some 0b1 ∧
    ApiAnswer.silent.code = none := by decide

/-! ### The dispatcher -/

/-- V31: the encoder's bytes. -/
theorem test_encodeFrame :
    (nextState? (exec (.encodeFrame 0x0107 4)
      { ready with pb := [(0, 1), (1, 2), (2, 3), (3, 4)] })).map
      (fun t => (t.txFrame, t.txCkA, t.txCkB, t.ckA)) =
      some ([0xB5, 0x62, 0x01, 0x07, 0x04, 0x00, 0x01, 0x02, 0x03, 0x04, 0x16, 0x65],
        0x16, 0x65, 0) := by rfl

/-- P1's transceive: V30 goes out, eight bytes come back. -/
theorem test_txrx_ok :
    (nextState? (exec (.txrx 0x0624 0)
      { ready with tp := [.ok], rx := List.replicate 12 0xFF })).map
      (fun t => (t.tx, t.chunk.length, t.rx.length, t.ret, t.dphase)) =
      some ([0xB5, 0x62, 0x06, 0x24, 0x00, 0x00, 0x2A, 0x84], 8, 4, .done, .txrx) := by rfl

/-- P7's failing transceive: the TX stream stays empty. -/
theorem test_txrx_err :
    (nextState? (exec (.txrx 0x0624 0) { ready with tp := [.err 7 0], rx := [0xFF] })).map
      (fun t => (t.tx, t.chunk, t.rx, t.ret)) = some ([], [], [0xFF], .failed 7) := by rfl

/-- V61. -/
theorem test_feedChunk_goes_on_after_stop :
    (nextState? (exec (.feedChunk [0xB5, 0x62, 0x06, 0x24, 0x00, 0x00, 0x2A, 0x84, 0xFF, 0xFF])
      { ready with intCb := .matchReply, awaitId := 0x0624 })).map
      (fun t => (t.stopSeen, t.matchResult, t.rxLen, t.idleRun, t.state)) =
      some (true, .replied, 0, 2, .sync1) := by rfl

/-- P8: the bytes after the claimed frame overwrite its payload. -/
theorem test_feedChunk_overwrites_reply :
    (nextState? (exec (.feedChunk
      [0xB5, 0x62, 0x06, 0x24, 0x01, 0x00, 0xAA, 0xD5, 0x5B,
       0xB5, 0x62, 0x01, 0x07, 0x01, 0x00, 0xCC])
      { ready with intCb := .matchReply, awaitId := 0x0624 })).map
      (fun t => (t.rxLen, t.pb, t.state, t.msgId, t.cnt, (t.ckA, t.ckB))) =
      some (1, [(0, 0xCC)], .chksum1, 0x0107, 1, (0xD5, 0xF0)) := by rfl

theorem test_readChunk_ok :
    (nextState? (exec .readChunk { ready with tp := [.ok], rxTail := .quiet, rx := [0x00] })).map
      (fun t => (t.chunk.length, t.chunk.take 2, t.rx, t.dphase, t.ret)) =
      some (16, [0x00, 0xFF], [], .scan, .done) := by rfl

/-- P7's failing read. -/
theorem test_readChunk_err :
    (nextState? (exec .readChunk { ready with tp := [.err 7 0] })).map
      (fun t => (t.chunk, t.ret)) = some ([], .failed 7) := by rfl

theorem test_sessionBegin :
    nextState? (exec (.sessionBegin .matchReply) { ready with stopSeen := true, idleRun := 9 }) =
      some { ready with intCb := .matchReply } := by decide

/-- V62: STOP beats the idle bound. -/
theorem test_sessionLoop_stop_first :
    (nextState? (exec .sessionLoop { ready with stopSeen := true, idleRun := 65 })).map (·.ret) =
      some .stopped := by decide

/-- The bound is reached at 50, not at 49 (V60, P3). -/
theorem test_sessionLoop_bound :
    ((nextState? (exec .sessionLoop { ready with idleRun := 50 })).map (·.ret),
      (nextState? (exec .sessionLoop { ready with idleRun := 49 })).map (·.todo)) =
      (some .timedOut, some [.run .readChunk, .loopUnlessFailed]) := by decide

theorem test_exchange :
    (nextState? (exec (.exchange 0x0624 0 .matchReply) ready)).map (·.todo) =
      some [.run (.sessionBegin .matchReply), .run (.txrx 0x0624 0), .loopUnlessFailed] := by decide

theorem test_scan :
    (nextState? (exec (.scan .none) ready)).map (·.todo) =
      some [.run (.sessionBegin .none), .run .sessionLoop] := by decide

/-- INIT leaves `io_code` and PB (R170, 70_reset_and_hazards.md). -/
theorem test_init :
    nextState? (exec (.init false 8)
      { inFrame .payload 0x0D 0x2E 0x0107 4 1 with
        ioCode := 7, pb := [(0, 0x01)], outcome := .timeout, awaitId := 0x0624, cap := 64 }) =
      some { ready with ioCode := 7, pb := [(0, 0x01)] } := by decide

theorem test_sendNoWait :
    (nextState? (exec (.sendNoWait 0x0624 0) { ready with matchResult := .acked, rxLen := 3 })).map
      (fun t => (t.dphase, t.awaitId, t.matchResult, t.rxLen)) =
      some (.txrx, 0x0624, .none, 0) := by decide

/-- V63: `n > cap` is refused. -/
theorem test_sendNoWait_too_long :
    refusal? (exec (.sendNoWait 0x0608 6) { ready with cap := 4 }) = some .sendTooLong := by decide

/-- V63: refused before INIT. -/
theorem test_sendWaitReply_before_init :
    refusal? (exec (.sendWaitReply 0x0624 0) State.reset) = some .notInitialised := by rfl

theorem test_sendWaitReply_longest :
    (nextState? (exec (.sendWaitReply 0x0624 8) ready)).map (fun t => (t.dphase, t.awaitId)) =
      some (.txrx, 0x0624) := by decide

/-- R173: session A with no strategy, session B after it. -/
theorem test_sendWaitAck :
    (nextState? (exec (.sendWaitAck 0x0611 2) ready)).map (·.todo) =
      some [.run (.sessionBegin .none), .run (.txrx 0x0611 2), .scanUnlessFailed, .finish .ack] := by
  decide

/-- P3: READ_ALL does not write `await_id`. -/
theorem test_readAll :
    (nextState? (exec .readAll { ready with awaitId := 0x0624, rxLen := 3 })).map
      (fun t => (t.dphase, t.awaitId, t.rxLen)) = some (.scan, 0x0624, 0) := by decide

theorem test_readAll_busy :
    refusal? (exec .readAll { ready with dphase := .scan }) = some .busy := by decide

/-- V63: a reserved opcode is refused. -/
theorem test_reserved_opcode : refusal? (exec .cmdReserved5 ready) = some .reservedCommand := by
  decide

/-! ### The idioms -/

theorem test_poll :
    nextState? (exec (.poll 0x0624) ready) = nextState? (exec (.sendWaitReply 0x0624 0) ready) := by
  decide

theorem test_poll1 :
    (nextState? (exec (.poll1 0x0611 0x05) { ready with pb := [(0, 1), (1, 2)] })).map
      (fun t => (t.pb, t.todo)) =
      some ([(0, 0x05), (1, 2)],
        [.run (.exchange 0x0611 1 .matchReply), .finish .reply]) := by decide

/-- P6's record and its two branches, at the compare. -/
def polled (e : Edit) : State :=
  { ready with
    rxLen := 6, todo := [.compare 0x0608 e]
    pb := [(0, 0xE8), (1, 0x03), (2, 0x01), (3, 0x00), (4, 0x01), (5, 0x00)] }

/-- P6 (a): nothing differs, nothing is sent. -/
theorem test_compare_no_op :
    nextState? (step (polled (.patch [(0, 0xE8), (1, 0x03)]))) =
      some { polled (.patch []) with todo := [] } := by decide

/-- P6 (b): the changed record is written in place and sent. -/
theorem test_compare_changed :
    (nextState? (step (polled (.patch [(0, 0xF4), (1, 0x01)])))).map (fun t => (t.pb, t.todo)) =
      some ([(0, 0xF4), (1, 0x01), (2, 0x01), (3, 0x00), (4, 0x01), (5, 0x00)],
        [.run (.sendWaitAck 0x0608 6)]) := by decide

/-! ### Completion, and the host's port -/

/-- P2's end: NAKED is ACK_REJECTED. -/
theorem test_finish_naked :
    (nextState? (step { ready with
      dphase := .scan, todo := [.finish .ack], ret := .stopped, matchResult := .naked,
      intCb := .matchAcknak })).map (fun t => (t.outcome, t.dphase, t.intCb)) =
      some (.ackRejected, .idle, .none) := by decide

/-- P7's end. -/
theorem test_finish_io :
    (nextState? (step { ready with
      dphase := .scan, todo := [.finish .reply], ret := .failed 7 })).map
      (fun t => (t.outcome, t.ioCode, t.dphase)) = some (.ioError, 7, .idle) := by decide

/-- P2's `MemWrite(1, 1, 00)`. -/
theorem test_host_write :
    (nextState? (step { ready with pb := [(0, 1)], host := [.pbWrite 1 0x00] })).map (·.pb) =
      some [(0, 1), (1, 0x00)] := by decide

/-- R44, R234 item 3: no access before INIT. -/
theorem test_host_access_before_init :
    refusal? (step { State.reset with host := [.pbWrite 0 0x00] }) = some .notInitialised ∧
    refusal? (step { State.reset with host := [.pbRead 0] }) = some .notInitialised := by
  exact ⟨rfl, rfl⟩

theorem test_host_write_outside :
    refusal? (step { ready with host := [.pbWrite 8 0x00] }) = some .hostOutsidePB := by decide

/-! ### Witnesses: a state and operands that meet each statement's hypotheses, clause by clause -/

/-- DecodeEncodeAgree, EveryDecodeWordSelectsOneRow. -/
theorem test_witness_encodable :
    (cfg.valid = true ∧ (Instr.payLast 4).wellFormed cfg = true ∧
      rowSelected cfg ⟨8, 7, 8, 0, 0⟩ .payload (.payLast 4) = true ∧
      rowByte cfg (.payLast 4) = some 4 ∧
      (Instr.payLast 4).format ≠ .micro ∧ (Instr.payLast 4).format ≠ .pseudo) ∧
    ((Instr.sendWaitAck 0xFFFF 0xFFFF).format = .cmd ∧
      (Instr.sendWaitAck 0xFFFF 0xFFFF).wellFormed cfg = true) := by decide

/-- ReservedCodesRejected: the lowest and the highest reserved state code; an opaque id beside ACK-ACK. -/
theorem test_witness_reserved_codes :
    9 ≤ ((0x900 : BitVec 12).extractLsb' 8 4).toNat ∧
    9 ≤ ((0xFFF : BitVec 12).extractLsb' 8 4).toNat ∧
    (0x0502 : BitVec 16) ≠ cfg.ackAckId ∧ (0x0502 : BitVec 16) ≠ cfg.ackNakId := by decide

/-- ChecksumClosedForm. -/
theorem test_witness_closed_form :
    [(1 : Byte), 2].Perm [2, 1] ∧ (0 : Byte) ≠ 0xFF ∧ (([0] : List Byte).length + 1) % 2 = 0 :=
  ⟨List.Perm.swap 2 1 [], by decide, by decide⟩

/-- HuntRows and SecondSyncRows, and FeedPerformsTheDecodedRow: the noise byte 0x62 in SYNC1, the byte 0xB5
in SYNC2. -/
theorem test_witness_sync_rows :
    ready.state = .sync1 ∧ ready.cfg.idle ≠ ready.cfg.sync1 ∧
    (0x62 : Byte) ≠ ready.cfg.sync1 ∧ (0x62 : Byte) ≠ ready.cfg.idle ∧
    { ready with state := .sync2 }.state = .sync2 ∧ (0xB5 : Byte) ≠ ready.cfg.sync2 ∧
    decodeDec ready.cfg ready.decCtx (decodeWord ready.state 0x62) = .ok (.s1Other 0x62) :=
  ⟨rfl, by decide, by decide, by decide, rfl, by decide, rfl⟩

/-- ClassAndIdRows. -/
theorem test_witness_class_id_rows :
    (inFrame .cls 0 0 0 0 0).state = .cls ∧ (inFrame .id 6 6 0x0006 0 0).state = .id := by decide

/-- LengthRows: the assembled length 0, 255 and 256; both cases of the result. -/
theorem test_witness_length_rows :
    (0 : Half).toNat = 256 * (0 : Byte).toNat + (0 : Half).toNat % 256 ∧
    (255 : Half).toNat = 256 * (0 : Byte).toNat + (255 : Half).toNat % 256 ∧
    (256 : Half).toNat = 256 * (1 : Byte).toNat + (0 : Half).toNat % 256 ∧
    (inFrame .length2 0 0 0 255 0).state = .length2 ∧ (256 : Half) ≠ 0 := by decide

/-- PayloadRows and FeedFrame: at the capacity, one below it inside the frame, one below it at its end. -/
theorem test_witness_payload_rows :
    (inFrame .payload 0 0 0 9 8).cap.toNat ≤ (inFrame .payload 0 0 0 9 8).cnt.toNat ∧
    (inFrame .payload 0 0 0 9 7).cnt.toNat < (inFrame .payload 0 0 0 9 7).cap.toNat ∧
    (inFrame .payload 0 0 0 9 7).cnt + 1 ≠ (inFrame .payload 0 0 0 9 7).len ∧
    (inFrame .payload 0 0 0 8 7).cnt + 1 = (inFrame .payload 0 0 0 8 7).len := by decide

/-- FirstChecksumRows and SecondChecksumRows. -/
theorem test_witness_checksum_rows :
    (0x16 : Byte) = (inFrame .chksum1 0x16 0x65 0 0 0).ckA ∧
    (0x17 : Byte) ≠ (inFrame .chksum1 0x16 0x65 0 0 0).ckA ∧
    (0x65 : Byte) = (inFrame .chksum2 0x16 0x65 0 0 0).ckB ∧
    (0x64 : Byte) ≠ (inFrame .chksum2 0x16 0x65 0 0 0).ckB ∧
    cfg.ck2Strict = true ∧ lenient.ck2Strict = false := by decide

/-- UnselectedRowRefused: a row that is selected, one that is not. -/
theorem test_witness_selection :
    (Instr.s2Match).format = .dec ∧ ready.selects .s1Sync = true ∧
    ready.selects .s2Match = false := by decide

/-- FeedParsingIffNoAccept, TransitionRelation, FeedFrame: a next state for each entry of the relation, with
the byte on the boundary between two entries. -/
theorem test_witness_feed_next :
    (∃ t, exec (.feed 0xB5) ready = .next t ∧ t.feedRes = .parsing) ∧
    (∃ t, exec (.feed 0xFF) ready = .next t) ∧
    (∃ t, exec (.feed 0x62) ready = .next t) ∧
    (∃ t, exec (.feed 0x62) { ready with state := .sync2 } = .next t) ∧
    (∃ t, exec (.feed 0xB5) { ready with state := .sync2 } = .next t) ∧
    (∃ t, exec (.feed 0xFF) (inFrame .cls 0 0 0 0 0) = .next t) ∧
    (∃ t, exec (.feed 0xFF) (inFrame .id 0 0 0 0 0) = .next t) ∧
    (∃ t, exec (.feed 0xFF) (inFrame .length1 0 0 0 0 0) = .next t) ∧
    (∃ t, exec (.feed 0) (inFrame .length2 0 0 0 0 0) = .next t ∧ t.len = 0) ∧
    (∃ t, exec (.feed 0) (inFrame .length2 0 0 0 1 0) = .next t ∧ t.len ≠ 0) ∧
    (∃ t, exec (.feed 0xFF) (inFrame .payload 0 0 0 9 8) = .next t) ∧
    (∃ t, exec (.feed 0xFF) (inFrame .payload 0 0 0 9 7) = .next t ∧ (7 : Half).toNat + 1 < 9) ∧
    (∃ t, exec (.feed 0xFF) (inFrame .payload 0 0 0 8 7) = .next t ∧ (7 : Half).toNat + 1 = 8) ∧
    (∃ t, exec (.feed 0x16) (inFrame .chksum1 0x16 0x65 0 0 0) = .next t) ∧
    (∃ t, exec (.feed 0x17) (inFrame .chksum1 0x16 0x65 0 0 0) = .next t) ∧
    (∃ t, exec (.feed 0x65) (inFrame .chksum2 0x16 0x65 0 0 0) = .next t ∧ t.feedRes ≠ .parsing) ∧
    (∃ t, exec (.feed 0x64) (inFrame .chksum2 0x16 0x65 0 0 0) = .next t) ∧
    (∃ t, exec (.feed 0x64) { inFrame .chksum2 0x16 0x65 0 0 0 with cfg := lenient } = .next t) :=
  ⟨⟨_, rfl, rfl⟩, ⟨_, rfl⟩, ⟨_, rfl⟩, ⟨_, rfl⟩, ⟨_, rfl⟩, ⟨_, rfl⟩, ⟨_, rfl⟩, ⟨_, rfl⟩,
    ⟨_, rfl, rfl⟩, ⟨_, rfl, by decide⟩, ⟨_, rfl⟩, ⟨_, rfl, by decide⟩, ⟨_, rfl, by decide⟩,
    ⟨_, rfl⟩, ⟨_, rfl⟩, ⟨_, rfl, by decide⟩, ⟨_, rfl⟩, ⟨_, rfl⟩⟩

/-- WholeFrameBehaviour: a frame that fills PB, wrong checksum bytes, and a frame one byte past it. -/
theorem test_witness_whole_frame :
    ready.state = .sync1 ∧ ready.ckA = 0 ∧ ready.ckB = 0 ∧ ready.cnt = 0 ∧
    (List.replicate 8 (0 : Byte)).length = (8 : Half).toNat ∧ (8 : Half).toNat ≤ ready.cap.toNat ∧
    (0x2B : Byte) ≠ (frameChecksum 0x0624 0 []).1 ∧ (0x85 : Byte) ≠ (frameChecksum 0x0624 0 []).2 ∧
    (List.replicate 9 (0 : Byte)).length = (9 : Half).toNat ∧
    ready.cap.toNat < (9 : Half).toNat := by decide

/-- The states of the tests meet the invariant. -/
theorem test_witness_inv : ready.Inv ∧ listening.Inv :=
  ⟨by constructor <;> decide, by constructor <;> decide⟩

/-- EncodeThenDecode, at the capacity; FeedingCompletes and AcceptCompletes with a consumer. -/
theorem test_witness_completion :
    ready.decClean ∧ (8 : Half).toNat ≤ ready.cap.toNat ∧
    listening.consumerAnswers 4 ∧ listening.consumerAnswers 1 ∧ listening.strategyInPB 0x0501 2 ∧
    { inFrame .chksum2 0x16 0x65 0x0501 2 2 with intCb := .matchAcknak, cap := 2 }.strategyInPB
      0x0501 2 := by
  refine ⟨⟨rfl, rfl, rfl, rfl, rfl, rfl⟩, by decide, fun _ => by decide, fun _ => by decide,
    fun h => (by cases h), fun _ _ _ => by decide⟩

/-- NoneAndReplyStrategies and AckNakStrategy: each clause, with lengths 1 and 2 and capacities 1 and 2. -/
theorem test_witness_strategies :
    (0x0624 : Half) = (acking 0x24).awaitId ∧ (0x0107 : Half) ≠ (acking 0x24).awaitId ∧
    (acking 0x24).cfg.ackAckId ≠ (acking 0x24).cfg.ackNakId ∧
    (0x0502 : Half) ≠ (acking 0x24).cfg.ackAckId ∧ (0x0502 : Half) ≠ (acking 0x24).cfg.ackNakId ∧
    (1 : Half).toNat < (acking 0x24).cfg.ackLen ∧ (acking 0x24).cfg.ackLen ≤ (2 : Half).toNat ∧
    (acking 0x24).cfg.ackLen ≤ { acking 0x24 with cap := 2 }.cap.toNat ∧
    (acking 0x24).awaitId.toNat =
      256 * ((acking 0x24).pbByte (acking 0x24).cfg.ackClassAt).toNat +
        ((acking 0x24).pbByte (acking 0x24).cfg.ackIdAt).toNat ∧
    (acking 0x01).awaitId.toNat ≠
      256 * ((acking 0x01).pbByte (acking 0x01).cfg.ackClassAt).toNat +
        ((acking 0x01).pbByte (acking 0x01).cfg.ackIdAt).toNat ∧
    acking20.awaitId.toNat = 256 * (acking20.pbByte acking20.cfg.ackClassAt).toNat +
        (acking20.pbByte acking20.cfg.ackIdAt).toNat ∧
    { acking 0x24 with cap := 1 }.cap.toNat < (acking 0x24).cfg.ackLen :=
  ⟨by decide, by decide, by decide, by decide, by decide, by decide, by decide, by decide, by rfl,
    by rw [show (acking 0x01).pbByte (acking 0x01).cfg.ackClassAt = 6 from rfl,
      show (acking 0x01).pbByte (acking 0x01).cfg.ackIdAt = 1 from rfl]; decide,
    by rfl, by decide⟩

/-- AcceptChain: the strategy answers CONTINUE with and without a consumer, and STOP. -/
theorem test_witness_accept_chain :
    (∃ t, exec (strategyRow listening.intCb 0x0107 4) (listening.record (.accepted 0x0107 4)) =
      .next t ∧ t.feedRes = .cont ∧ t.apiEn = true) ∧
    (∃ t, exec (strategyRow ready.intCb 0x0107 4) (ready.record (.accepted 0x0107 4)) =
      .next t ∧ t.feedRes = .cont ∧ t.apiEn = false) ∧
    (∃ t, exec (strategyRow (acking 0x24).intCb 0x0501 2)
      ((acking 0x24).record (.accepted 0x0501 2)) = .next t ∧ t.feedRes = .stop) ∧
    ({ ready with intCb := .matchReply }.intCb = .matchReply ∧ (0x0107 : Half) ≠ ready.awaitId) :=
  ⟨⟨_, rfl, rfl, rfl⟩, ⟨_, rfl, rfl, rfl⟩, ⟨_, rfl, rfl⟩, rfl, by decide⟩

/-- ApiDelivery: each answer, with a consumer attached and without, and both values of the answer's bit. -/
theorem test_witness_api_delivery :
    ∀ a : ApiAnswer, { listening with api := [a] }.api = [a] ∧ listening.apiEn = true ∧
      { ready with api := [a] }.api = [a] ∧ ready.apiEn = false ∧
      ∀ b : BitVec 1, ∃ c : ApiAnswer, c.code = some b :=
  fun _ => ⟨rfl, rfl, rfl, rfl, fun b => (by
    rcases (show b = 0 ∨ b = 1 by revert b; decide) with rfl | rfl
    · exact ⟨.cont, rfl⟩
    · exact ⟨.stop, rfl⟩)⟩

/-- EncodeResult, TxrxResult and ReadChunkResult: a payload that fills PB, one past it, each answer. -/
theorem test_witness_transactions :
    ((0x00 : Byte) ++ (0x08 : Byte) : Half).toNat ≤ ready.cap.toNat ∧
    ready.cap.toNat < ((0x00 : Byte) ++ (0x09 : Byte) : Half).toNat ∧
    (8 : Half).toNat ≤ ready.cap.toNat ∧
    { ready with tp := [.ok] }.tp = .ok :: [] ∧
    { ready with tp := [.err 7 0] }.tp = .err 7 0 :: [] ∧
    { ready with tp := [.silent] }.tp = .silent :: [] := by decide

/-- FeedChunkFeedsEveryByte: a feed that returns STOP, one that does not, and a chunk after a STOP. -/
theorem test_witness_feed_chunk :
    (∃ t, exec (.feed 0x84) { inFrame .chksum2 0x2A 0x84 0x0624 0 0 with
      intCb := .matchReply, awaitId := 0x0624 } = .next t ∧ t.feedRes = .stop) ∧
    (∃ t, exec (.feed 0xFF) ready = .next t ∧ t.feedRes ≠ .stop) ∧
    (∃ t, exec (.feedChunk [0xFF]) { ready with stopSeen := true } = .next t) ∧
    ready.chunk = [] :=
  ⟨⟨_, rfl, rfl⟩, ⟨_, rfl, by decide⟩, ⟨_, rfl⟩, rfl⟩

/-- SessionLoopTest: STOP, the bound reached, one below the bound, and the test after a chunk. -/
theorem test_witness_session_loop :
    { ready with stopSeen := true }.stopSeen = true ∧ ready.stopSeen = false ∧
    { ready with idleRun := 50 }.cfg.idleBound ≤ { ready with idleRun := 50 }.idleRun.toNat ∧
    { ready with idleRun := 49 }.idleRun.toNat < { ready with idleRun := 49 }.cfg.idleBound ∧
    { ready with todo := [.loopUnlessFailed] }.todo = .loopUnlessFailed :: ready.todo ∧
    { ready with todo := [.loopUnlessFailed], ret := .failed 7 }.ret = .failed 7 ∧
    { ready with todo := [.loopUnlessFailed] }.ret = .done := by decide

/-- InitResult, CommandsAccepted, CommandsRefused, PollExpansions, PollModifySend. -/
theorem test_witness_commands :
    ready.inited = true ∧ ready.dphase = .idle ∧ (8 : Half).toNat ≤ ready.cap.toNat ∧
    State.reset.inited = false ∧ ready.cap.toNat < (9 : Half).toNat ∧
    { ready with dphase := .txrx }.dphase ≠ .idle ∧ { ready with dphase := .scan }.dphase ≠ .idle ∧
    1 ≤ { ready with cap := 1 }.cap.toNat ∧ { ready with cap := 0 }.cap.toNat < 1 :=
  ⟨rfl, rfl, by decide, rfl, by decide, by decide, by decide, by decide, by decide⟩

/-- PollModifySend's compare: an outcome that is not OK, no difference, a difference. -/
theorem test_witness_compare :
    (polled (.patch [])).chunk = [] ∧
    (polled (.patch [])).todo = .compare 0x0608 (.patch []) :: [] ∧
    (polled (.patch [])).dphase = .idle ∧ (polled (.patch [])).outcome = .ok ∧
    { polled (.patch []) with outcome := .timeout }.outcome ≠ .ok ∧
    (polled (.patch [])).rxLen.toNat ≤ (polled (.patch [])).cap.toNat ∧
    editDiffers (.patch [(0, 0xE8)]) ((polled (.patch [])).pbBytes 6) = false ∧
    editDiffers (.patch [(0, 0xF4)]) ((polled (.patch [])).pbBytes 6) = true := by decide

/-- CommandOutcomes: each result of a session and each match, and session A's end. -/
theorem test_witness_outcomes :
    (∀ k, { ready with todo := [.finish k] }.todo = .finish k :: []) ∧ ready.chunk = [] ∧
    { ready with ret := .failed 7 }.ret = .failed 7 ∧
    (∀ e, { ready with ret := .stopped }.ret ≠ .failed e) ∧
    (∀ e, { ready with ret := .timedOut }.ret ≠ .failed e) ∧
    { ready with ret := .timedOut }.ret ≠ .stopped ∧
    { ready with matchResult := .replied }.matchResult = .replied ∧ ready.matchResult ≠ .replied ∧
    { ready with matchResult := .acked }.matchResult = .acked ∧
    { ready with matchResult := .naked }.matchResult = .naked ∧
    { ready with todo := [.scanUnlessFailed] }.todo = .scanUnlessFailed :: [] ∧
    ready.ret = .done :=
  ⟨fun _ => rfl, rfl, rfl, fun _ => (by simp), fun _ => (by simp), by decide, rfl, by decide, rfl,
    rfl, rfl, rfl⟩

/-- TransportFailureEndsTheCommand. -/
theorem test_witness_transport_failure :
    let s : State := { ready with tp := [.err 7 0] }
    s.inited = true ∧ s.dphase = .idle ∧ s.chunk = [] ∧ (8 : Half).toNat ≤ s.cap.toNat ∧
    s.cfg.valid = true ∧ s.tp = .err 7 0 :: [] := by decide

/-- StepRunsTheDecodedInstruction: a byte of a chunk, an operation, a command word, each host idiom, nothing
to do. -/
theorem test_witness_step :
    ({ ready with chunk := [0xB5] }.chunk = 0xB5 :: [] ∧
      decodeDec ready.cfg ready.decCtx (decodeWord ready.state 0xB5) = .ok .s1Sync) ∧
    ({ ready with todo := [.run .readChunk] }.todo = .run .readChunk :: [] ∧ ready.chunk = []) ∧
    ({ ready with host := [.cmd (cmdWord 4 0 0)] }.host = .cmd (cmdWord 4 0 0) :: [] ∧
      ready.todo = [] ∧ ready.host = []) ∧
    (∀ a ∈ [HostAct.poll 0x0624, .poll1 0x0611 5, .pollModifySend 0x0608 (some 5) (.patch [])],
      let s : State := { ready with host := [a] }
      s.chunk = [] ∧ s.todo = [] ∧ s.host = a :: [] ∧ ∃ t, step s = .next t ∧ t.dphase = .txrx) :=
  ⟨⟨rfl, rfl⟩, ⟨rfl, rfl⟩, ⟨rfl, rfl, rfl⟩, fun a ha => (by
    simp only [List.mem_cons, List.not_mem_nil, or_false] at ha
    rcases ha with rfl | rfl | rfl <;> exact ⟨rfl, rfl, rfl, _, rfl, rfl⟩)⟩

/-- HostAccesses: the last byte of PB and the first one past it, for a write and a read, idle and busy, before
and after INIT. -/
theorem test_witness_host_accesses :
    ∀ a ∈ [HostAct.pbWrite 7 1, .pbWrite 8 1, .pbRead 7, .pbRead 8],
    ∀ d ∈ [DPhase.idle, .txrx, .scan], ∀ b : Bool,
    let s : State := { ready with dphase := d, host := [a], inited := b }
    s.chunk = [] ∧ s.todo = [] ∧ s.inited = b ∧ s.host = a :: [] ∧
    (7 : Half).toNat < s.cap.toNat ∧ s.cap.toNat ≤ (8 : Half).toNat ∧
    (d = .txrx ∨ d = .scan → s.dphase ≠ .idle) := by decide

/-- StepKeepsInvariant, NoAccessOutsidePB, OnlyInitReconfigures, OutcomeOnlyAtCompletion and
PhaseTransitions, and PBAboveCapacityUntouched at address 8: an INIT word changes the capacity, a READ_ALL
word the phase, a command's end the outcome; the READ_ALL state and the refused one meet the invariant. -/
theorem test_witness_steps :
    (∃ t, step { ready with host := [.cmd (cmdWord 0 1 64)], ioCode := 7 } = .next t ∧ t.cap ≠ 8) ∧
    (∃ t, step { ready with host := [.cmd (cmdWord 4 0 0)] } = .next t ∧ t.dphase ≠ .idle) ∧
    (∃ t, step { ready with
      dphase := .scan, ret := .failed 7, todo := [.finish .readAll] } = .next t ∧
      t.outcome ≠ .ok ∧ t.ioCode ≠ 0 ∧ t.dphase ≠ .scan) ∧
    (∃ t, step { ready with host := [.pbWrite 7 1] } = .next t ∧
      { ready with host := [.pbWrite 7 1] }.cap.toNat ≤ 8) ∧
    (∃ t, step { ready with host := [.cmd (cmdWord 1 0x0624 8)] } = .next t ∧ t.dphase = .txrx) ∧
    ({ ready with host := [.cmd (cmdWord 1 0x0624 8)] }.Inv ∧
      { ready with host := [.cmd (cmdWord 4 0 0)] }.Inv ∧
      { ready with host := [.pbWrite 8 1] }.Inv) ∧
    (∃ r, step { ready with host := [.pbWrite 8 1] } = .refused r) :=
  ⟨⟨_, rfl, by decide⟩, ⟨_, rfl, by decide⟩, ⟨_, rfl, by decide, by decide, by decide⟩,
    ⟨_, rfl, by decide⟩,
    ⟨_, rfl, rfl⟩,
    ⟨by constructor <;> decide, by constructor <;> decide, by constructor <;> decide⟩, ⟨_, rfl⟩⟩

/-- TimeoutLeavesNoPartialFrame: a session that reaches the bound. -/
def timingOut : State :=
  { ready with
    dphase := .scan, intCb := .none, idleRun := 50
    todo := [.run .sessionLoop, .finish .readAll] }

theorem test_witness_timeout :
    timingOut.Inv ∧ (∃ t, step timingOut = .next t ∧ t.ret = .timedOut) ∧
      timingOut.ret ≠ .timedOut :=
  ⟨by constructor <;> decide, ⟨_, rfl, rfl⟩, by decide⟩

/-- CommandEndsOnlyBySessionEnd: a session that ends by STOP, by the bound and by a failed read, and the
completion after each; every state meets both invariants. -/
def ending (r : SessRes) (stop : Bool) (idle : Half) : State :=
  { ready with
    dphase := .scan, stopSeen := stop, idleRun := idle, ret := r
    todo := [.finish .readAll] }

def stopping : State :=
  { ready with dphase := .scan, stopSeen := true, todo := [.run .sessionLoop, .finish .readAll] }

def failing : State :=
  { ready with
    dphase := .scan, tp := [.err 7 0]
    todo := [.run .readChunk, .loopUnlessFailed, .finish .readAll] }

theorem test_witness_session_end :
    (∀ s ∈ [ending .stopped true 0, ending .timedOut false 50, ending (.failed 7) false 0],
      s.Inv ∧ s.SessionInv ∧ s.dphase ≠ .idle ∧ s.dphase = .scan ∧
        ∃ t, step s = .next t ∧ t.dphase = .idle) ∧
    (stopping.Inv ∧ stopping.SessionInv ∧ stopping.ret ≠ .stopped ∧
      ∃ t, step stopping = .next t ∧ t.ret = .stopped) ∧
    (timingOut.Inv ∧ timingOut.SessionInv ∧ timingOut.ret ≠ .timedOut ∧
      ∃ t, step timingOut = .next t ∧ t.ret = .timedOut) ∧
    (failing.Inv ∧ failing.SessionInv ∧ failing.ret ≠ .failed 7 ∧
      ∃ t, step failing = .next t ∧ t.ret = .failed 7) := by
  refine ⟨fun s hs => ?_, ⟨?_, ⟨rfl, fun h => by cases h⟩, by decide, _, rfl, rfl⟩,
    ⟨test_witness_timeout.1, ⟨rfl, fun h => by cases h⟩, by decide, _, rfl, rfl⟩,
    ⟨?_, ⟨rfl, fun h => by cases h⟩, by decide, _, rfl, rfl⟩⟩
  · simp only [List.mem_cons, List.not_mem_nil, or_false] at hs
    rcases hs with rfl | rfl | rfl
    · refine ⟨?_, ⟨rfl, fun _ => ⟨rfl, .inr rfl⟩⟩, by decide, rfl, _, rfl, rfl⟩
      constructor <;> decide
    · refine ⟨?_, ⟨rfl, fun _ => ⟨rfl, .inr rfl⟩⟩, by decide, rfl, _, rfl, rfl⟩
      constructor <;> decide
    · refine ⟨?_, ⟨rfl, fun _ => ⟨rfl, .inl ⟨7, rfl⟩⟩⟩, by decide, rfl, _, rfl, rfl⟩
      constructor <;> decide
  all_goals constructor <;> decide

/-- QuietReadAllTimesOut: V60's four reads at CHUNK_LEN 16 and IDLE_BOUND 50. -/
theorem test_witness_quiet_read_all :
    let s : State := { ready with rxTail := .quiet, tp := List.replicate 4 .ok }
    s.cfg.valid = true ∧ s.inited = true ∧ s.dphase = .idle ∧ s.chunk = [] ∧ s.state = .sync1 ∧
    s.rx = [] ∧ s.rxTail = .quiet ∧
    (s.cfg.idleBound + s.cfg.chunkLen - 1) / s.cfg.chunkLen = 4 ∧
    s.tp = List.replicate 4 .ok ++ [] := by decide

/-- `decClean`, in a form `decide` reads. -/
abbrev Clean (s : State) : Prop :=
  s.state = .sync1 ∧ s.ckA = 0 ∧ s.ckB = 0 ∧ s.msgId = 0 ∧ s.len = 0 ∧ s.cnt = 0

theorem test_clean_is_decClean (s : State) : Clean s ↔ s.decClean := Iff.rfl

/-- ReplyCompletesThePoll: P1's read, four idle bytes and then the reply of four payload bytes. -/
theorem test_witness_reply :
    let s : State := { ready with
      tp := [.ok, .ok]
      rx := List.replicate 12 0xFF ++ frameBytes cfg 0x0624 4 [0x10, 0x27, 0x00, 0x03] }
    s.cfg.valid = true ∧ s.inited = true ∧ s.dphase = .idle ∧ s.chunk = [] ∧ Clean s ∧
    (0 : Half).toNat ≤ s.cap.toNat ∧ [(0x10 : Byte), 0x27, 0x00, 0x03].length = (4 : Half).toNat ∧
    (4 : Half).toNat ≤ s.cap.toNat ∧ (0 : Half).toNat + 8 < s.cfg.idleBound ∧
    s.cfg.chunkLen = 4 + ((4 : Half).toNat + 8) + 0 ∧
    s.rx = List.replicate ((0 : Half).toNat + 8 + 4) s.cfg.idle ++
      frameBytes s.cfg 0x0624 4 [0x10, 0x27, 0x00, 0x03] ++ List.replicate 0 s.cfg.idle ++ [] ∧
    s.tp = .ok :: .ok :: [] := by decide

/-- AckOrNakDecidesTheSend: P2's second read, with a NAK and with an ACK, at capacity 2. -/
theorem test_witness_ack_or_nak :
    ∀ isAck : Bool,
    let s : State := { ready with
      cap := 2
      tp := [.ok, .ok]
      rx := List.replicate 10 0xFF ++
        frameBytes cfg (if isAck then 0x0501 else 0x0500) 2 [0x06, 0x11] ++
        List.replicate 6 0xFF }
    s.cfg.valid = true ∧ s.inited = true ∧ s.dphase = .idle ∧ s.chunk = [] ∧ Clean s ∧
    (2 : Half).toNat ≤ s.cap.toNat ∧ [(0x06 : Byte), 0x11].length = (2 : Half).toNat ∧
    [(0x06 : Byte), 0x11][s.cfg.ackClassAt]? = some 0x06 ∧
    [(0x06 : Byte), 0x11][s.cfg.ackIdAt]? = some 0x11 ∧
    s.cfg.chunkLen = 0 + ((2 : Half).toNat + 8) + 6 ∧
    s.rx = List.replicate ((2 : Half).toNat + 8 + 0) s.cfg.idle ++
      frameBytes s.cfg (if isAck then s.cfg.ackAckId else s.cfg.ackNakId) 2 [0x06, 0x11] ++
      List.replicate 6 s.cfg.idle ++ [] ∧
    s.tp = .ok :: .ok :: [] := by decide

/-- ScanOfAnyLengthExists. -/
theorem test_witness_scan_length : cfg.valid = true := by decide

/-- RejectedFramesAreSilent: each of the four framing errors. -/
theorem test_witness_rejected :
    (∃ t, exec (.feed 0x63) { ready with state := .sync2 } = .next t ∧
      t.trace = .feSync2 :: ready.trace) ∧
    (∃ t, exec (.feed 0) (inFrame .payload 0 0 0 9 8) = .next t ∧
      t.trace = .feOverrun :: ready.trace) ∧
    (∃ t, exec (.feed 0x17) (inFrame .chksum1 0x16 0x65 0 0 0) = .next t ∧
      t.trace = .feCkA :: ready.trace) ∧
    (∃ t, exec (.feed 0x64) (inFrame .chksum2 0x16 0x65 0 0 0) = .next t ∧
      t.trace = .feCkB :: ready.trace) :=
  ⟨⟨_, rfl, rfl⟩, ⟨_, rfl, rfl⟩, ⟨_, rfl, rfl⟩, ⟨_, rfl, rfl⟩⟩

end Sys2Proof.Tests
end

section
/-!
PROOFS, scope: a step is `exec` of the instruction it takes up. The equations for bytes, operations and
command words are those of the step laws; here are the rest, one per kind of work.
-/

namespace Sys2Proof.Machine

variable {s : State} {rest : List HostAct}

/-- R76, R163: the row a waiting byte's decode word decodes to is the one executed. -/
theorem step_decoded_row {x : Byte} {bytes : List Byte} {i : Instr} (hc : s.chunk = x :: bytes)
    (hi : decodeDec s.cfg s.decCtx (decodeWord s.state x) = .ok i) :
    step s = mapNext (exec i { s with chunk := bytes }) State.latchStop := by
  have hf : fetch s = .row i { s with chunk := bytes } := by simp only [fetch, hc, hi]
  rw [step, hf]

theorem step_poll {id : Half} (hc : s.chunk = []) (ht : s.todo = [])
    (hh : s.host = .poll id :: rest) : step s = exec (.poll id) { s with host := rest } := by
  rw [step, fetch_host hc ht hh]; rfl

theorem step_poll1 {id : Half} {b : Byte} (hc : s.chunk = []) (ht : s.todo = [])
    (hh : s.host = .poll1 id b :: rest) :
    step s = exec (.poll1 id b) { s with host := rest } := by
  rw [step, fetch_host hc ht hh]; rfl

theorem step_pollModifySend {id : Half} {p : Option Byte} {e : Edit} (hc : s.chunk = [])
    (ht : s.todo = []) (hh : s.host = .pollModifySend id p e :: rest) :
    step s = exec (.pollModifySend id p e) { s with host := rest } := by
  rw [step, fetch_host hc ht hh]; rfl

/-- Settles O45: each kind of work by its own step equation. -/
theorem stepRunsTheDecodedInstruction : Obligations.StepRunsTheDecodedInstruction := by
  intro s
  exact ⟨fun _ _ _ => step_decoded_row, fun _ _ => step_run, fun _ _ => step_cmd,
    fun _ _ => step_poll, fun _ _ _ => step_poll1, fun _ _ _ _ => step_pollModifySend, step_idle⟩

end Sys2Proof.Machine
end

section
/-!
PROOFS, state: everything a step can take up, each with what it then performs. Proofs about a step take
`step_effect` apart; what was fetched follows from `fetch_todo` and `fetch_host`.
-/

namespace Sys2Proof.Machine

/-- What a step from `s` to `t` took up and performed: the kinds of work in the order of the fetch. -/
inductive StepEffect (s t : State) : Prop where
  | byte {x : Byte} {bytes : List Byte} {u : State} : s.chunk = x :: bytes →
      execFeed x { s with chunk := bytes } = .next u → t = u.latchStop → StepEffect s t
  | run {i : Instr} {rest : List Cont} : s.chunk = [] → s.todo = .run i :: rest →
      exec i { s with todo := rest } = .next t → StepEffect s t
  | loop {rest : List Cont} : s.chunk = [] → s.todo = .loopUnlessFailed :: rest →
      loopUnlessFailed { s with todo := rest } = .next t → StepEffect s t
  | scan {rest : List Cont} : s.chunk = [] → s.todo = .scanUnlessFailed :: rest →
      scanUnlessFailed { s with todo := rest } = .next t → StepEffect s t
  | finish {k : CmdKind} {rest : List Cont} : s.chunk = [] → s.todo = .finish k :: rest →
      finishCommand k { s with todo := rest } = .next t → StepEffect s t
  | compare {id : Half} {e : Edit} {rest : List Cont} : s.chunk = [] →
      s.todo = .compare id e :: rest →
      compareAndSend id e { s with todo := rest } = .next t → StepEffect s t
  | command {w : BitVec 35} {rest : List HostAct} : s.chunk = [] → s.todo = [] →
      s.host = .cmd w :: rest → exec (decodeCmd w) { s with host := rest } = .next t → StepEffect s t
  | pbWrite {a : Half} {v : Byte} {rest : List HostAct} : s.chunk = [] → s.todo = [] →
      s.host = .pbWrite a v :: rest → hostWrite a.toNat v { s with host := rest } = .next t →
      StepEffect s t
  | pbRead {a : Half} {rest : List HostAct} : s.chunk = [] → s.todo = [] →
      s.host = .pbRead a :: rest → hostRead a.toNat { s with host := rest } = .next t →
      StepEffect s t
  | poll {id : Half} {rest : List HostAct} : s.chunk = [] → s.todo = [] →
      s.host = .poll id :: rest → exec (.poll id) { s with host := rest } = .next t → StepEffect s t
  | poll1 {id : Half} {b : Byte} {rest : List HostAct} : s.chunk = [] → s.todo = [] →
      s.host = .poll1 id b :: rest → exec (.poll1 id b) { s with host := rest } = .next t →
      StepEffect s t
  | pollModifySend {id : Half} {p : Option Byte} {e : Edit} {rest : List HostAct} : s.chunk = [] →
      s.todo = [] → s.host = .pollModifySend id p e :: rest →
      exec (.pollModifySend id p e) { s with host := rest } = .next t → StepEffect s t
  | nothing : t = s → StepEffect s t

/-- Everything a step can do. -/
theorem step_effect {s t : State} (h : step s = .next t) : StepEffect s t := by
  cases hc : s.chunk with
  | cons x bytes =>
    obtain ⟨u, hu, rfl⟩ := mapNext_eq_next.mp (step_byte hc ▸ h)
    exact .byte hc hu rfl
  | nil =>
    cases ht : s.todo with
    | cons c rest =>
      cases c with
      | run i => exact .run hc ht (step_run hc ht ▸ h)
      | loopUnlessFailed => exact .loop hc ht (step_loop hc ht ▸ h)
      | scanUnlessFailed => exact .scan hc ht (step_scan hc ht ▸ h)
      | finish k => exact .finish hc ht (step_finish hc ht ▸ h)
      | compare id e => exact .compare hc ht (step_compare hc ht ▸ h)
    | nil =>
      cases hh : s.host with
      | cons a rest =>
        cases a with
        | cmd w => exact .command hc ht hh (step_cmd hc ht hh ▸ h)
        | pbWrite a v => exact .pbWrite hc ht hh (step_pbWrite hc ht hh ▸ h)
        | pbRead a => exact .pbRead hc ht hh (step_pbRead hc ht hh ▸ h)
        | poll id => exact .poll hc ht hh (step_poll hc ht hh ▸ h)
        | poll1 id b => exact .poll1 hc ht hh (step_poll1 hc ht hh ▸ h)
        | pollModifySend id p e =>
          exact .pollModifySend hc ht hh (step_pollModifySend hc ht hh ▸ h)
      | nil =>
        rw [step_idle hc ht hh] at h
        cases h
        exact .nothing rfl

/-! ### Operations that answer a next state -/

variable {s t : State}

/-- INIT answers next only between commands, and then writes every register but `io_code` (R170). -/
theorem execInit_eq_next {api : Bool} {capIn : Half} : execInit api capIn s = .next t ↔
    s.dphase = .idle ∧ t = { s.clearDec with
      cap := capIn, apiEn := api, intCb := .none, awaitId := 0, matchResult := .none, rxLen := 0
      stopSeen := false, txCkA := 0, txCkB := 0, outcome := .ok, dphase := .idle
      inited := true } := by
  unfold execInit
  split <;> simp_all [eq_comm (b := t)]

/-- A command ends in FINISH with some outcome, or in FINISH_IO (R176). -/
theorem finishCommand_eq_next {k : CmdKind} (h : finishCommand k s = .next t) :
    ∃ o e, t = { s with intCb := .none, outcome := o, ioCode := e, dphase := .idle } := by
  unfold finishCommand at h
  split at h <;> cases h <;> exact ⟨_, _, rfl⟩

/-- SESSION_LOOP ends with a result, or puts one more read and its test on the list (R166). -/
theorem execSessionLoop_eq_next (h : execSessionLoop s = .next t) :
    (∃ r, s.sessionEnd = some r ∧ t = { s with ret := r }) ∨
      (s.sessionEnd = none ∧ t = s.push [.run .readChunk, .loopUnlessFailed]) := by
  unfold execSessionLoop at h
  split at h <;> cases h
  · exact .inl ⟨_, ‹_›, rfl⟩
  · exact .inr ⟨‹_›, rfl⟩

/-- After a transaction the session returns its failure, or goes on as SESSION_LOOP (R166, R168). -/
theorem loopUnlessFailed_eq_next (h : loopUnlessFailed s = .next t) :
    t = s ∨ execSessionLoop s = .next t := by
  unfold loopUnlessFailed at h
  split at h
  · cases h
    exact .inl rfl
  all_goals exact .inr h

/-- After session A the command ends with its failure, or goes on to scan (R173). -/
theorem scanUnlessFailed_eq_next (h : scanUnlessFailed s = .next t) :
    t = s ∨ execScan .matchAcknak s = .next t := by
  unfold scanUnlessFailed at h
  split at h
  · cases h
    exact .inl rfl
  all_goals exact .inr h

/-- What TXRX may write: the phase, the frame with its checksum, and what a transaction leaves; no register of
the decoder (R162). -/
theorem execTxrx_eq_next {id n : Half} (h : execTxrx id n s = .next t) :
    ∃ a b f tp k tx rx c tr r, t = { s with
      dphase := .txrx, txCkA := a, txCkB := b, txFrame := f, tp := tp, fresh := k, tx := tx
      rx := rx, chunk := c, trace := tr, ret := r } := by
  obtain ⟨u, hu, ht⟩ := andThen_eq_next.mp h
  obtain ⟨-, rfl⟩ := execEncodeFrame_eq_next hu
  rcases transceive_eq_next ht with ⟨-, rfl⟩ | ⟨e, sent, -, rfl⟩
  all_goals exact ⟨_, _, _, _, _, _, _, _, _, _, rfl⟩

/-- What READ_CHUNK may write: the phase and what a transaction leaves (R164). -/
theorem execReadChunk_eq_next (h : execReadChunk s = .next t) :
    ∃ tp k rx c tr r, t = { s with
      dphase := .scan, tp := tp, fresh := k, rx := rx, chunk := c, trace := tr, ret := r } := by
  rcases readBytes_eq_next h with ⟨-, rfl⟩ | ⟨e, sent, -, rfl⟩
  all_goals exact ⟨_, _, _, _, _, _, rfl⟩

end Sys2Proof.Machine
end

section
/-!
PROOFS, state: the invariant of R43 over a whole step. First the two ways an operation keeps it: between
commands, and inside one. Then the work of each kind, and the step.
-/

namespace Sys2Proof.Machine

variable {s t : State}

/-- The configuration and the registers that the invariant's parts about a frame read. -/
def State.frameRegs (s : State) : Params × DecState × Half × DecCtx :=
  (s.cfg, s.state, s.msgId, s.decCtx)

/-- An update that leaves the frame's registers alone keeps the invariant, if it keeps the parts about PB,
`rx_len` and the control. -/
theorem State.Inv.of_frameRegs (hi : s.Inv) (hf : t.frameRegs = s.frameRegs)
    (hidle : t.idleRun = s.idleRun ∨ t.idleRun = 0) (hpb : Memory.wf t.pb = true)
    (hrx : t.rxLen.toNat ≤ s.cap.toNat) (hinit : t.isBusy = true → t.inited = true)
    (hctl : controlOk t.cap t.dphase t.todo = true) (hchunk : t.chunk ≠ [] → t.isBusy = true) :
    t.Inv := by
  simp only [State.frameRegs, State.decCtx, Prod.mk.injEq, DecCtx.mk.injEq] at hf
  obtain ⟨hcfg, hst, hid, hlen, hcnt, hcap, ha, hb⟩ := hf
  exact hi.of_sameDecoder hcfg hst ha hb hid hlen hcnt hcap hidle hpb hrx hinit hctl hchunk

/-! ### Between commands -/

/-- Between commands the list holds the idiom's lines. -/
theorem State.Inv.todo_idle (hi : s.Inv) (hd : s.dphase = .idle) : idleTodo s.todo = true := by
  have hc := hi.control
  rwa [hd] at hc

/-- An update that leaves UBXC between commands, and the decoder alone, keeps the invariant if PB stays
canonical, the reply length fits and the list holds the idiom's lines. -/
theorem State.Inv.of_idle (hi : s.Inv) (hf : t.frameRegs = s.frameRegs) (hidle : t.idleRun = s.idleRun)
    (hd : t.dphase = .idle) (hchunk : t.chunk = []) (hpb : Memory.wf t.pb = true)
    (hrx : t.rxLen.toNat ≤ s.cap.toNat) (htodo : idleTodo t.todo = true) : t.Inv :=
  hi.of_frameRegs hf (.inl hidle) hpb hrx (by simp [State.isBusy, hd]) (by rwa [hd]) (absurd hchunk)

/-- An accepted sending command keeps the invariant if the list it sets up fits the send phase. -/
theorem State.Inv.accepted {id : Half} {cs : List Cont} (hi : s.Inv) (hinit : s.inited = true)
    (hcs : sendTodo s.cap (cs ++ s.todo) = true) : ((s.beginSend id).push cs).Inv :=
  hi.of_frameRegs rfl (.inl rfl) hi.memoryWf (Nat.zero_le _) (fun _ => hinit) hcs (fun _ => rfl)

/-- Between commands the idiom's lines may be put on the list. -/
theorem State.Inv.push_idle {cs : List Cont} (hi : s.Inv) (hd : s.dphase = .idle)
    (hcs : idleTodo cs = true) : (s.push cs).Inv :=
  hi.of_idle rfl rfl hd (hi.chunk_eq_nil hd) hi.memoryWf hi.rxLenFits
    (by simpa [idleTodo] using ⟨List.all_eq_true.mp hcs, List.all_eq_true.mp (hi.todo_idle hd)⟩)

theorem State.Inv.sendNoWait {id n : Half} (hi : s.Inv) (h : execSendNoWait id n s = .next t) :
    t.Inv := by
  obtain ⟨hinit, hd, hn, h⟩ := admitSend_eq_next.mp h
  cases h
  exact hi.accepted hinit (by simp [sendTodo, scanTodo, hn, hi.todo_idle hd])

theorem State.Inv.sendReply {id n : Half} (hi : s.Inv)
    (h : sendAndWaitReply id n s = .next t) : t.Inv := by
  obtain ⟨hinit, hd, hn, h⟩ := admitSend_eq_next.mp h
  cases h
  exact hi.accepted hinit (by simp [sendTodo, scanTodo, hn, hi.todo_idle hd])

theorem State.Inv.sendWaitAck {id n : Half} (hi : s.Inv) (h : execSendWaitAck id n s = .next t) :
    t.Inv := by
  obtain ⟨hinit, hd, hn, h⟩ := admitSend_eq_next.mp h
  cases h
  exact hi.accepted hinit (by simp [sendTodo, scanTodo, scanItem, hn, hi.todo_idle hd])

theorem State.Inv.readAll (hi : s.Inv) (h : execReadAll s = .next t) : t.Inv := by
  obtain ⟨hinit, hd, h⟩ := admitCommand_eq_next.mp h
  cases h
  exact hi.of_frameRegs rfl (.inl rfl) hi.memoryWf (Nat.zero_le _)
    (fun _ => hinit) (by simp [controlOk, scanTodo, scanItem, hi.todo_idle hd]) (fun _ => rfl)

/-- INIT clears the decoder, so that any capacity fits (R170). -/
theorem State.Inv.init {api : Bool} {cap : Half} (hi : s.Inv) (h : execInit api cap s = .next t) :
    t.Inv := by
  obtain ⟨hd, rfl⟩ := execInit_eq_next.mp h
  exact
    { cfgValid := hi.cfgValid
      idleOnlyHunting := fun _ => rfl
      huntingClean := fun _ => ⟨rfl, rfl, rfl, rfl, rfl⟩
      classFresh := by simp
      headerUncounted := by simp
      payloadOpen := by simp
      payloadComplete := by simp
      headerFolded := by simp
      memoryWf := hi.memoryWf
      rxLenFits := Nat.zero_le _
      busyInited := by simp
      control := hi.todo_idle hd
      chunkBusy := absurd (hi.chunk_eq_nil hd) }

theorem State.Inv.pbWrite {a : Nat} {v : Byte} (hi : s.Inv) (h : hostWrite a v s = .next t) :
    t.Inv := by
  obtain ⟨-, hd, -, rfl⟩ := hostWrite_eq_next.mp h
  exact hi.of_idle rfl rfl hd (hi.chunk_eq_nil hd)
    (Memory.wf_set _ _ _ hi.memoryWf) hi.rxLenFits (hi.todo_idle hd)

theorem State.Inv.pbRead {a : Nat} (hi : s.Inv) (h : hostRead a s = .next t) : t.Inv := by
  obtain ⟨-, hd, -, rfl⟩ := hostRead_eq_next.mp h
  exact hi.of_idle rfl rfl hd (hi.chunk_eq_nil hd) hi.memoryWf hi.rxLenFits (hi.todo_idle hd)

theorem State.Inv.poll1 {id : Half} {b : Byte} (hi : s.Inv) (h : execPoll1 id b s = .next t) :
    t.Inv := by
  obtain ⟨u, hu, h⟩ := andThen_eq_next.mp h
  exact (hi.pbWrite hu).sendReply h

theorem State.Inv.pollModifySend {id : Half} {p : Option Byte} {e : Edit} (hi : s.Inv)
    (h : execPollModifySend id p e s = .next t) : t.Inv := by
  cases p with
  | none =>
    obtain ⟨-, hd, -⟩ := admitSend_eq_next.mp h
    exact (hi.push_idle hd rfl).sendReply h
  | some b =>
    obtain ⟨u, hu, h⟩ := andThen_eq_next.mp h
    obtain ⟨-, hd, -⟩ := admitSend_eq_next.mp h
    exact ((hi.pbWrite hu).push_idle hd rfl).sendReply h

/-- The host's compare keeps the invariant: what it writes to PB is canonical, and the send that it adds is
an idiom's line (R190). -/
theorem State.Inv.compare {id : Half} {e : Edit} (hi : s.Inv)
    (h : compareAndSend id e s = .next t) : t.Inv := by
  obtain ⟨hd, rfl | ⟨-, -, rfl⟩⟩ := compareAndSend_eq_next h
  · exact hi
  · exact hi.of_idle rfl rfl hd (hi.chunk_eq_nil hd)
      (Memory.wf_setFrom _ _ _ hi.memoryWf) hi.rxLenFits (hi.todo_idle hd)

/-- Every row of the CMD format keeps the invariant. -/
theorem State.Inv.command {i : Instr} (hi : s.Inv) (hf : i.format = .cmd)
    (h : exec i s = .next t) : t.Inv := by
  cases i
  case init => exact hi.init h
  case sendNoWait => exact hi.sendNoWait h
  case sendWaitReply => exact hi.sendReply h
  case sendWaitAck => exact hi.sendWaitAck h
  case readAll => exact hi.readAll h
  case cmdReserved5 | cmdReserved6 | cmdReserved7 => cases h
  all_goals cases hf

/-- Taking a host action keeps the invariant. -/
theorem State.Inv.withHost (hi : s.Inv) (rest : List HostAct) :
    ({ s with host := rest } : State).Inv :=
  hi.of_frameRegs rfl (.inl rfl) hi.memoryWf hi.rxLenFits hi.busyInited hi.control hi.chunkBusy

/-- Taking an idiom's line off the list keeps the invariant. -/
theorem State.Inv.withIdleTodo {rest : List Cont} (hi : s.Inv) (hd : s.dphase = .idle)
    (hr : idleTodo rest = true) : ({ s with todo := rest } : State).Inv :=
  hi.of_idle rfl rfl hd (hi.chunk_eq_nil hd) hi.memoryWf hi.rxLenFits hr

/-! ### While a command is in progress -/

/-- Inside a command an update that leaves the decoder, PB and the reply length alone keeps the invariant if
the command goes on with a list that fits its phase. -/
theorem State.Inv.of_busy (hi : s.Inv) (hbusy : s.dphase ≠ .idle)
    (hf : t.frameRegs = s.frameRegs) (hidle : t.idleRun = s.idleRun ∨ t.idleRun = 0)
    (hpb : t.pb = s.pb) (hrx : t.rxLen = s.rxLen) (hinit : t.inited = s.inited)
    (hd : t.dphase ≠ .idle) (hctl : controlOk t.cap t.dphase t.todo = true) : t.Inv :=
  hi.of_frameRegs hf hidle (hpb ▸ hi.memoryWf) (hrx ▸ hi.rxLenFits)
    (fun _ => hinit ▸ hi.busyInited (by simp [State.isBusy, hbusy])) hctl
    (fun _ => by simp [State.isBusy, hd])

/-- SESSION_LOOP inside a command: the list it leaves still scans. -/
theorem State.Inv.sessionLoop {rest : List Cont} (hi : s.Inv) (hd : s.dphase ≠ .idle)
    (hr : scanTodo rest = true) (h : execSessionLoop { s with todo := rest } = .next t) : t.Inv := by
  rcases execSessionLoop_eq_next h with ⟨r, -, rfl⟩ | ⟨-, rfl⟩
  · exact hi.of_busy hd rfl (.inl rfl) rfl rfl rfl hd (controlOk_of_scanTodo hd hr)
  · exact hi.of_busy hd rfl (.inl rfl) rfl rfl rfl hd
      (controlOk_of_scanTodo hd (by simpa [scanTodo, scanItem] using hr))

/-- SCAN inside a command. -/
theorem State.Inv.scan {st : Strategy} {rest : List Cont} (hi : s.Inv) (hd : s.dphase ≠ .idle)
    (hr : scanTodo rest = true) (h : execScan st { s with todo := rest } = .next t) : t.Inv := by
  cases h
  exact hi.of_busy hd rfl (.inl rfl) rfl rfl rfl hd
    (controlOk_of_scanTodo hd (by simpa [scanTodo, scanItem] using hr))

/-- Taking a finished line off the list of a command that still scans. -/
theorem State.Inv.withScanTodo {rest : List Cont} (hi : s.Inv) (hd : s.dphase ≠ .idle)
    (hr : scanTodo rest = true) : ({ s with todo := rest } : State).Inv :=
  hi.of_busy hd rfl (.inl rfl) rfl rfl rfl hd (controlOk_of_scanTodo hd hr)

/-- An operation on the list of a command in progress keeps the invariant. -/
theorem State.Inv.runBusy {i : Instr} {rest : List Cont} (hi : s.Inv) (hd : s.dphase ≠ .idle)
    (ht : s.todo = .run i :: rest) (h : exec i { s with todo := rest } = .next t) : t.Inv := by
  rcases hi.run_busy ht hd with ⟨st, rfl, hr⟩ | ⟨id, n, st, rfl, hp, hn, hr⟩ |
    ⟨id, n, rfl, -, -, hr⟩ | ⟨rfl, hr⟩ | ⟨rfl, hr⟩ | ⟨st, rfl, hr⟩
  · cases h
    exact hi.of_busy hd rfl (.inr rfl) rfl rfl rfl hd hr
  · cases h
    exact hi.of_busy hd rfl (.inl rfl) rfl rfl rfl hd
      (by simp [hp, controlOk, sendTodo, scanTodo, scanItem, hn, hr])
  · obtain ⟨a, b, f, tp, k, tx, rx, c, tr, r, rfl⟩ := execTxrx_eq_next h
    exact hi.of_busy hd rfl (.inl rfl) rfl rfl rfl (by simp) (sendTodo_of_scanTodo rest hr)
  · exact hi.sessionLoop hd hr h
  · obtain ⟨tp, k, rx, c, tr, r, rfl⟩ := execReadChunk_eq_next h
    exact hi.of_busy hd rfl (.inl rfl) rfl rfl rfl (by simp) hr
  · exact hi.scan hd hr h

/-- An operation on the list keeps the invariant: between commands it is the idiom's send. -/
theorem State.Inv.run {i : Instr} {rest : List Cont} (hi : s.Inv)
    (ht : s.todo = .run i :: rest) (h : exec i { s with todo := rest } = .next t) : t.Inv := by
  by_cases hd : s.dphase = .idle
  · obtain ⟨⟨id, n, rfl⟩, hr⟩ := hi.run_idle ht hd
    exact (hi.withIdleTodo hd hr).sendWaitAck h
  · exact hi.runBusy hd ht h

/-- A command's completion leaves the idiom's lines and no waiting byte (R176). -/
theorem State.Inv.finish {k : CmdKind} {rest : List Cont} (hi : s.Inv) (hc : s.chunk = [])
    (ht : s.todo = .finish k :: rest) (h : finishCommand k { s with todo := rest } = .next t) :
    t.Inv := by
  obtain ⟨-, hr⟩ := hi.finish_busy ht
  obtain ⟨o, e, rfl⟩ := finishCommand_eq_next h
  exact hi.of_idle rfl rfl rfl hc hi.memoryWf hi.rxLenFits hr

/-- A waiting byte is fed while a command is in progress, so taking it keeps the invariant. -/
theorem State.Inv.withChunk {bytes : List Byte} (hi : s.Inv) (hc : s.chunk ≠ []) :
    ({ s with chunk := bytes } : State).Inv :=
  hi.of_frameRegs rfl (.inl rfl) hi.memoryWf hi.rxLenFits
    hi.busyInited hi.control (fun _ => hi.chunkBusy hc)

/-- Settles O48: each kind of work a step can take up keeps the invariant. -/
theorem stepKeepsInvariant : Obligations.StepKeepsInvariant := by
  intro s t hi h
  cases step_effect h with
  | byte hc hu ht => exact ht ▸ ((hi.withChunk (by simp [hc])).feed hu).latchStop
  | run _ ht h => exact hi.run ht h
  | loop _ ht h =>
    obtain ⟨hd, hr⟩ := hi.loop_busy ht
    rcases loopUnlessFailed_eq_next h with rfl | h
    · exact hi.withScanTodo hd hr
    · exact hi.sessionLoop hd hr h
  | scan _ ht h =>
    obtain ⟨hd, hr⟩ := hi.scan_busy ht
    rcases scanUnlessFailed_eq_next h with rfl | h
    · exact hi.withScanTodo hd hr
    · exact hi.scan hd hr h
  | finish hc ht h => exact hi.finish hc ht h
  | compare _ ht h =>
    obtain ⟨hd, hr⟩ := hi.compare_idle ht
    exact (hi.withIdleTodo hd hr).compare h
  | command _ _ _ h => exact (hi.withHost _).command (decodeCmd_format _) h
  | pbWrite _ _ _ h => exact (hi.withHost _).pbWrite h
  | pbRead _ _ _ h => exact (hi.withHost _).pbRead h
  | poll _ _ _ h => exact (hi.withHost _).sendReply h
  | poll1 _ _ _ h => exact (hi.withHost _).poll1 h
  | pollModifySend _ _ _ h => exact (hi.withHost _).pollModifySend h
  | nothing ht => exact ht ▸ hi

end Sys2Proof.Machine
end

section
/-!
PROOFS, state: the frame of every operation. All but INIT and a command's completion leave the
configuration, the capacity, the consumer's attachment, `inited`, the outcome and PB above the capacity
alone; proved once over the instructions and then over a step.
-/

namespace Sys2Proof.Machine

variable {s t u : State}

/-- What INIT or a command's completion alone may write. -/
def State.setup (s : State) : Params × Half × Bool × Bool × CmdOutcome × Half :=
  (s.cfg, s.cap, s.apiEn, s.inited, s.outcome, s.ioCode)

/-- From `s` to `t` the setup is as before, and so is every byte of PB at or above the capacity. -/
structure Confined (s t : State) : Prop where
  setup : t.setup = s.setup
  pbAbove : ∀ a : Nat, s.cap.toNat ≤ a → t.pbByte a = s.pbByte a

/-- An update that writes neither the setup nor PB. -/
theorem Confined.of_pb (h : t.setup = s.setup) (hpb : t.pb = s.pb) : Confined s t :=
  ⟨h, fun a _ => State.pbByte_congr s t hpb a⟩

theorem Confined.refl (s : State) : Confined s s := .of_pb rfl rfl

theorem Confined.cap (h : Confined s t) : t.cap = s.cap := congrArg (·.2.1) h.setup

theorem Confined.outcome (h : Confined s t) : t.outcome = s.outcome :=
  congrArg (·.2.2.2.2.1) h.setup

theorem Confined.ioCode (h : Confined s t) : t.ioCode = s.ioCode := congrArg (·.2.2.2.2.2) h.setup

theorem Confined.trans (h : Confined s t) (h' : Confined t u) : Confined s u :=
  ⟨h'.setup.trans h.setup, fun a ha =>
    (h'.pbAbove a (h.cap ▸ ha)).trans (h.pbAbove a ha)⟩

/-- One byte written below the capacity. -/
theorem Confined.of_set {a : Nat} {v : Byte} (ha : a < s.cap.toNat) (h : t.setup = s.setup)
    (hpb : t.pb = Memory.set s.pb a v) : Confined s t where
  setup := h
  pbAbove b hb := by
    rw [State.pbByte_congr { s with pb := Memory.set s.pb a v } t hpb, State.pbByte_set,
      if_neg (by omega)]

/-- Bytes written from address 0, no more of them than the capacity. -/
theorem Confined.of_setFrom {vs : List Byte} (hv : vs.length ≤ s.cap.toNat)
    (h : t.setup = s.setup) (hpb : t.pb = Memory.setFrom s.pb 0 vs) : Confined s t where
  setup := h
  pbAbove b hb := by simp [State.pbByte, hpb, Memory.get?_setFrom, show vs.length ≤ b by omega]

/-! ### Feeding and accepting -/

theorem Confined.accept {id n : Half} (h : execAccept id n s = .next t) : Confined s t := by
  obtain ⟨m, l, r, d, a, f, rfl, -⟩ := execAccept_shape h
  exact .of_pb rfl rfl

/-- A FEED writes PB only below the capacity (R121). -/
theorem Confined.feed {x : Byte} (h : execFeed x s = .next t) : Confined s t := by
  have e := execFeed_effect s x
  rw [h] at e
  generalize ho : (Host.Outcome.next t : Res) = o at e
  cases e
  case accept | lenient =>
    refine .trans ?_ (.accept ho.symm)
    exact .of_pb rfl rfl
  all_goals cases ho
  case store hc => exact .of_set hc rfl rfl
  all_goals exact .of_pb rfl rfl

theorem Confined.latchStop (s : State) : Confined s s.latchStop :=
  .of_pb (by simp [State.setup]) (by simp)

theorem Confined.feedBulk {xs : List Byte} (h : execFeedBulk xs s = .next t) : Confined s t := by
  induction xs generalizing s with
  | nil => cases h; exact .refl _
  | cons x xs ih =>
    obtain ⟨u, hu, h⟩ := andThen_eq_next.mp h
    exact .trans (.feed hu) (ih h)

theorem Confined.feedChunk {c : List Byte} (h : execFeedChunk c s = .next t) : Confined s t := by
  induction c generalizing s with
  | nil => cases h; exact .refl _
  | cons x c ih =>
    obtain ⟨u, hu, h⟩ := andThen_eq_next.mp h
    obtain ⟨v, hv, rfl⟩ := mapNext_eq_next.mp hu
    exact .trans (.feed hv) (.trans (.latchStop v) (ih h))

/-- A selected row is the row of the byte it names (R76). -/
theorem exists_selectRow_of_rowSelected {p : Params} {r : DecCtx} {st : DecState} {i : Instr}
    (h : rowSelected p r st i = true) : ∃ x, selectRow p r st x = i := by
  cases i
  case s1Sync => exact ⟨p.sync1, by simp_all [rowSelected, selectRow]⟩
  case s1Idle => exact ⟨p.idle, by simp_all [rowSelected, selectRow]⟩
  case s2Match => exact ⟨p.sync2, by simp_all [rowSelected, selectRow]⟩
  case len2Zero => exact ⟨0, by simp_all [rowSelected, selectRow]⟩
  case len2Nz x =>
    have hx : ¬(x = 0 ∧ lowByte r.len = 0) := by
      rintro ⟨rfl, hl⟩
      simp [rowSelected, hl] at h
    exact ⟨x, by simp_all [rowSelected, selectRow]⟩
  case s1Other x | s2Miss x | decClass x | decId x | len1 x | payOverrun x | payStore x | payLast x |
      ck1Match x | ck1Miss x | ck2Match x | ck2Miss x =>
    exact ⟨x, by simp_all [rowSelected, selectRow]⟩
  all_goals cases h

/-- A row that answers next was selected (assumption log 17). -/
theorem selects_of_row {i : Instr} (hf : i.format = .dec) (h : exec i s = .next t) :
    s.selects i = true := by
  cases i
  case s1Sync | s1Idle | s1Other | s2Match | s2Miss | decClass | decId | len1 | len2Zero | len2Nz |
      payOverrun | payStore | payLast | ck1Match | ck1Miss | ck2Match | ck2Miss =>
    exact (onRow_eq_next.mp h).1
  all_goals cases hf

/-- A decoder row that answers next is the FEED of some byte. -/
theorem exists_feed_of_row {i : Instr} (hf : i.format = .dec) (h : exec i s = .next t) :
    ∃ x, execFeed x s = .next t := by
  obtain ⟨x, hx⟩ := exists_selectRow_of_rowSelected (selects_of_row hf h)
  exact ⟨x, by rw [execFeed_eq_selectRow, hx, h]⟩

theorem Confined.row {i : Instr} (hf : i.format = .dec) (h : exec i s = .next t) : Confined s t :=
  have ⟨_, hx⟩ := exists_feed_of_row hf h
  .feed hx

/-! ### The strategies -/

theorem Confined.matchAcknowledged {b : Bool} {n : Half}
    (h : matchAcknowledged b n s = .next t) : Confined s t := by
  rcases matchAcknowledged_eq_next h with rfl | ⟨-, -, -, rfl⟩ <;> exact .of_pb rfl rfl

theorem Confined.matchReply {id n : Half} (h : execStratMatchReply id n s = .next t) :
    Confined s t := by
  unfold execStratMatchReply at h
  split at h <;> cases h <;> exact .of_pb rfl rfl

theorem Confined.matchAcknak {id n : Half} (h : execStratMatchAcknak id n s = .next t) :
    Confined s t := by
  unfold execStratMatchAcknak at h
  split_ifs at h
  · exact .matchAcknowledged h
  · exact .matchAcknowledged h
  · cases h
    exact .of_pb rfl rfl

theorem Confined.deliver {id n : Half} (h : deliver id n s = .next t) : Confined s t := by
  obtain ⟨-, ⟨-, rfl⟩ | ⟨-, rfl⟩⟩ := deliver_eq_next.mp h <;> exact .of_pb rfl rfl

/-! ### The dispatcher and the host -/

theorem Confined.setCkPair (s : State) (p : CkPair) (v : Byte × Byte) :
    Confined s (s.setCkPair p v) := .of_pb (by simp [State.setup]) (by simp)

theorem Confined.encodeFrame {id n : Half} (h : execEncodeFrame id n s = .next t) :
    Confined s t := by
  obtain ⟨-, rfl⟩ := execEncodeFrame_eq_next h
  exact .of_pb rfl rfl

theorem Confined.txrx {id n : Half} (h : execTxrx id n s = .next t) : Confined s t := by
  obtain ⟨a, b, f, tp, k, tx, rx, c, tr, r, rfl⟩ := execTxrx_eq_next h
  exact .of_pb rfl rfl

theorem Confined.readChunk (h : execReadChunk s = .next t) : Confined s t := by
  obtain ⟨tp, k, rx, c, tr, r, rfl⟩ := execReadChunk_eq_next h
  exact .of_pb rfl rfl

theorem Confined.sessionLoop (h : execSessionLoop s = .next t) : Confined s t := by
  rcases execSessionLoop_eq_next h with ⟨r, -, rfl⟩ | ⟨-, rfl⟩ <;> exact .of_pb rfl rfl

theorem Confined.loopUnlessFailed (h : loopUnlessFailed s = .next t) : Confined s t := by
  rcases loopUnlessFailed_eq_next h with rfl | h
  · exact .refl _
  · exact .sessionLoop h

theorem Confined.scanUnlessFailed (h : scanUnlessFailed s = .next t) : Confined s t := by
  rcases scanUnlessFailed_eq_next h with rfl | h
  · exact .refl _
  · cases h
    exact .of_pb rfl rfl

theorem Confined.admitSend {n : Half} (h : admitSend n s (.next u) = .next t)
    (hu : Confined s u) : Confined s t := by
  obtain ⟨-, -, -, h⟩ := admitSend_eq_next.mp h
  cases h
  exact hu

theorem Confined.sendAndWaitReply {id n : Half} (h : sendAndWaitReply id n s = .next t) :
    Confined s t := .admitSend h (.of_pb rfl rfl)

theorem Confined.readAll (h : execReadAll s = .next t) : Confined s t := by
  obtain ⟨-, -, h⟩ := admitCommand_eq_next.mp h
  cases h
  exact .of_pb rfl rfl

/-- The host writes PB only below the capacity (R50). -/
theorem Confined.hostWrite {a : Nat} {v : Byte} (h : hostWrite a v s = .next t) :
    Confined s t := by
  obtain ⟨-, -, ha, rfl⟩ := hostWrite_eq_next.mp h
  exact .of_set ha rfl rfl

theorem Confined.hostRead {a : Nat} (h : hostRead a s = .next t) : Confined s t := by
  obtain ⟨-, -, -, rfl⟩ := hostRead_eq_next.mp h
  exact .of_pb rfl rfl

theorem Confined.pollModifySend {id : Half} {p : Option Byte} {e : Edit}
    (h : execPollModifySend id p e s = .next t) : Confined s t := by
  cases p with
  | none =>
    refine .trans ?_ (.sendAndWaitReply h)
    exact .of_pb rfl rfl
  | some b =>
    obtain ⟨u, hu, h⟩ := andThen_eq_next.mp h
    refine .trans (.hostWrite hu) (.trans ?_ (.sendAndWaitReply h))
    exact .of_pb rfl rfl

@[simp] theorem editApply_length (e : Edit) (cur : List Byte) :
    (editApply e cur).length = cur.length := by
  cases e <;> simp [editApply]

/-- The changed record is as long as the one read, which fits PB (R190). -/
theorem Confined.compareAndSend {id : Half} {e : Edit} (h : compareAndSend id e s = .next t) :
    Confined s t := by
  obtain ⟨-, rfl | ⟨-, hn, rfl⟩⟩ := compareAndSend_eq_next h
  · exact .refl _
  · exact .of_setFrom (by simpa using hn) rfl rfl

/-! ### Every instruction, and a step -/

/-- Every instruction but INIT is confined. -/
theorem exec_confined {i : Instr} (hi : ∀ api cap, i ≠ .init api cap) (h : exec i s = .next t) :
    Confined s t := by
  cases i
  case init api cap => exact absurd rfl (hi api cap)
  case stratNone | resetDec | sessionBegin | exchange | scan =>
    cases h
    exact .of_pb rfl rfl
  case ckInit | ckUpdate | ckFold =>
    cases h
    exact .setCkPair ..
  case cmdReserved5 | cmdReserved6 | cmdReserved7 => cases h
  case stratMatchReply => exact .matchReply h
  case stratMatchAcknak => exact .matchAcknak h
  case msgidAckAck | msgidAckNak => exact .matchAcknowledged h
  case feed => exact .feed h
  case feedBulk => exact .feedBulk h
  case feedChunk => exact .feedChunk h
  case accept => exact .accept h
  case apiDeliver => exact .deliver h
  case encodeFrame => exact .encodeFrame h
  case txrx => exact .txrx h
  case readChunk => exact .readChunk h
  case sessionLoop => exact .sessionLoop h
  case sendNoWait | sendWaitReply | sendWaitAck => exact .admitSend h (.of_pb rfl rfl)
  case readAll => exact .readAll h
  case poll => exact .sendAndWaitReply h
  case poll1 =>
    obtain ⟨u, hu, h⟩ := andThen_eq_next.mp h
    exact .trans (.hostWrite hu) (.sendAndWaitReply h)
  case pollModifySend => exact .pollModifySend h
  all_goals exact .row rfl h

/-- The frame of a step from `s` to `t`: it is confined, or it took up an INIT or a command's completion. -/
inductive StepFrame (s t : State) : Prop where
  | confined : Confined s t → StepFrame s t
  | init {api : Bool} {cap : Half} {u : State} : fetch s = .op (.init api cap) u → Confined s u →
      execInit api cap u = .next t → StepFrame s t
  | finish {k : CmdKind} {u : State} : fetch s = .finish k u → Confined s u →
      finishCommand k u = .next t → StepFrame s t

/-- The frame of a step that performs an instruction. -/
theorem StepFrame.of_op {i : Instr} (hf : fetch s = .op i u) (hu : Confined s u)
    (h : exec i u = .next t) : StepFrame s t := by
  by_cases hi : ∃ api cap, i = .init api cap
  · obtain ⟨api, cap, rfl⟩ := hi
    exact .init hf hu h
  · exact .confined (hu.trans (exec_confined (fun api cap e => hi ⟨api, cap, e⟩) h))

theorem step_frame (h : step s = .next t) : StepFrame s t := by
  have hbytes : ∀ bytes, Confined s { s with chunk := bytes } := fun _ => .of_pb rfl rfl
  have htodo : ∀ rest, Confined s { s with todo := rest } := fun _ => .of_pb rfl rfl
  have hhost : ∀ rest, Confined s { s with host := rest } := fun _ => .of_pb rfl rfl
  cases step_effect h with
  | byte _ hu ht => exact .confined (ht ▸ (hbytes _).trans (.trans (.feed hu) (.latchStop _)))
  | run hc ht h => exact .of_op (fetch_todo hc ht) (htodo _) h
  | loop _ _ h => exact .confined ((htodo _).trans (.loopUnlessFailed h))
  | scan _ _ h => exact .confined ((htodo _).trans (.scanUnlessFailed h))
  | finish hc ht h => exact .finish (fetch_todo hc ht) (htodo _) h
  | compare _ _ h => exact .confined ((htodo _).trans (.compareAndSend h))
  | command hc ht hh h => exact .of_op (fetch_host hc ht hh) (hhost _) h
  | pbWrite _ _ _ h => exact .confined ((hhost _).trans (.hostWrite h))
  | pbRead _ _ _ h => exact .confined ((hhost _).trans (.hostRead h))
  | poll hc ht hh h => exact .of_op (fetch_host hc ht hh) (hhost _) h
  | poll1 hc ht hh h => exact .of_op (fetch_host hc ht hh) (hhost _) h
  | pollModifySend hc ht hh h => exact .of_op (fetch_host hc ht hh) (hhost _) h
  | nothing ht => exact .confined (ht ▸ .refl s)

/-- Settles O50: a confined step by its frame; INIT and a completion do not write PB. -/
theorem pbAboveCapacityUntouched : Obligations.PBAboveCapacityUntouched := by
  intro s t h a ha
  cases step_frame h with
  | confined hst => exact hst.pbAbove a ha
  | init _ hu h =>
    obtain ⟨-, rfl⟩ := execInit_eq_next.mp h
    exact hu.pbAbove a ha
  | finish _ hu h =>
    obtain ⟨o, e, rfl⟩ := finishCommand_eq_next h
    exact hu.pbAbove a ha

/-- Settles O52: a confined step writes neither register; INIT and a completion end in D_IDLE. -/
theorem outcomeOnlyAtCompletion : Obligations.OutcomeOnlyAtCompletion := by
  intro s t h hne
  cases step_frame h with
  | confined hst => exact absurd hne (by simp [hst.outcome, hst.ioCode])
  | init hf _ h =>
    obtain ⟨-, rfl⟩ := execInit_eq_next.mp h
    exact ⟨rfl, .inr ⟨_, _, _, hf⟩⟩
  | finish hf _ h =>
    obtain ⟨o, e, rfl⟩ := finishCommand_eq_next h
    exact ⟨rfl, .inl ⟨_, _, hf⟩⟩

end Sys2Proof.Machine
end

section
/-!
PROOFS, state: the chunk buffer is FEED_CHUNK, the host's accesses to PB, and power-on.
-/

namespace Sys2Proof.Machine

/-- R41: the waiting bytes are fed one step each, as FEED_CHUNK feeds them. -/
theorem runSteps_chunk (c : List Byte) (s : State) (hs : s.chunk = []) :
    runSteps c.length { s with chunk := c } = execFeedChunk c s := by
  induction c generalizing s with
  | nil =>
    have h : { s with chunk := [] } = s := by rw [← hs]
    rw [h]
    rfl
  | cons x c ih =>
    have hstep : step { s with chunk := x :: c } =
        mapNext (execFeed x s) fun t => { t.latchStop with chunk := c } := by
      rw [step_byte (s := { s with chunk := x :: c }) rfl, execFeed_chunk x s c]
      cases execFeed x s <;> simp [State.latchStop_withChunk]
    rw [List.length_cons, runSteps_succ, hstep, execFeedChunk]
    cases hf : execFeed x s with
    | next t => exact ih t.latchStop (by simp [execFeed_keeps_chunk hf, hs])
    | fault r => rfl
    | refused r => rfl

/-- Settles O35, by induction on the waiting bytes. -/
theorem chunkBufferIsFeedChunk : Obligations.ChunkBufferIsFeedChunk :=
  fun s c hs => runSteps_chunk c s hs

/-! ### The host's accesses to PB -/

/-- Which writes of the host are refused, and by what name (R60, R234, assumption log 36). -/
theorem hostWrite_refusals (s : State) (a : Nat) (v : Byte) :
    (s.inited = true → s.dphase = .idle → s.cap.toNat ≤ a →
      hostWrite a v s = .refused .hostOutsidePB) ∧
    (s.inited = true → s.dphase ≠ .idle → hostWrite a v s = .refused .hostWhileBusy) ∧
    (s.inited = false → hostWrite a v s = .refused .notInitialised) := by
  refine ⟨fun hi hd ha => ?_, fun hi hd => ?_, fun hi => ?_⟩
  · simp [hostWrite, hi, hd, Nat.not_lt.mpr ha]
  · simp [hostWrite, hi, hd]
  · simp [hostWrite, hi]

/-- Which reads of the host are refused: where a write is. -/
theorem hostRead_refusals (s : State) (a : Nat) :
    (s.inited = true → s.dphase = .idle → s.cap.toNat ≤ a →
      hostRead a s = .refused .hostOutsidePB) ∧
    (s.inited = true → s.dphase ≠ .idle → hostRead a s = .refused .hostWhileBusy) ∧
    (s.inited = false → hostRead a s = .refused .notInitialised) := by
  refine ⟨fun hi hd ha => ?_, fun hi hd => ?_, fun hi => ?_⟩
  · simp [hostRead, hi, hd, Nat.not_lt.mpr ha]
  · simp [hostRead, hi, hd]
  · simp [hostRead, hi]

/-- A host's write that is allowed changes its byte alone and no register (R45, R60). -/
theorem hostWrite_frame {s : State} {a : Nat} {v : Byte} (rest : List HostAct)
    (hi : s.inited = true) (hd : s.dphase = .idle) (ha : a < s.cap.toNat) :
    ∃ t, hostWrite a v { s with host := rest } = .next t ∧
      t.pbByte a = v ∧ samePBOutside a 1 s t ∧ sameRegsExcept [] s t ∧ t.host = rest := by
  refine ⟨_, hostWrite_eq_next.mpr ⟨hi, hd, ha, rfl⟩, ?_, ?_, ?_, rfl⟩
  · rw [State.pbByte_set { s with host := rest }, if_pos rfl]
  · intro b hb
    rw [State.pbByte_set { s with host := rest }, if_neg (by omega)]
    rfl
  · intro r _
    cases r <;> rfl

/-- Settles O46: an allowed access by its frame, any other by its refusal. -/
theorem hostAccesses : Obligations.HostAccesses := by
  intro s a v rest hc ht
  constructor
  · intro hh
    rw [step_pbWrite hc ht hh]
    exact ⟨hostWrite_frame rest, hostWrite_refusals { s with host := rest } a.toNat v⟩
  · intro hh
    rw [step_pbRead hc ht hh]
    exact ⟨fun hi hd ha => hostRead_eq_next.mpr ⟨hi, hd, ha, rfl⟩,
      hostRead_refusals { s with host := rest } a.toNat⟩

/-! ### Power-on -/

/-- The power-on parameters meet R7's constraints, whatever `CHUNK_LEN` and `CK2_STRICT` are. -/
theorem default_valid : Params.default.valid = true := by
  simp [Params.valid, Params.default]

/-- Power-on meets the invariant: hunting with clear registers, idle, nothing listed. -/
theorem reset_inv : State.reset.Inv where
  cfgValid := default_valid
  idleOnlyHunting := fun _ => rfl
  huntingClean := fun _ => ⟨rfl, rfl, rfl, rfl, rfl⟩
  classFresh := fun _ => ⟨rfl, rfl⟩
  headerUncounted := fun _ => rfl
  payloadOpen := by simp [State.reset]
  payloadComplete := by simp [State.reset]
  headerFolded := by simp [State.reset]
  memoryWf := rfl
  rxLenFits := Nat.le_refl _
  busyInited := by simp [State.isBusy, State.reset]
  control := rfl
  chunkBusy := by simp [State.reset]

/-- Settles O47: with nothing listed no completion is next. -/
theorem powerOnMeetsInvariant : Obligations.PowerOnMeetsInvariant :=
  ⟨rfl, rfl, reset_inv, .of_not_endsNext rfl rfl⟩

end Sys2Proof.Machine
end

section
/-!
PROOFS, memory: from a state that meets the invariant no outcome is an access of UBXC outside PB, and a
refusal is the host's. First how outcomes compose, then each operation under the part of the invariant that
it needs, then the work a step takes up.
-/

namespace Sys2Proof.Machine

variable {s t : State} {o : Res} {id n : Half}

/-- A refusal that the host's own command or access brings about (R175 (a) to (c), U7). -/
def Refusal.ofHost (r : Refusal) : Prop :=
  r = .notInitialised ∨ r = .reservedCommand ∨ r = .sendTooLong ∨ r = .hostOutsidePB

/-- An outcome that is no access to PB outside its capacity, and if a refusal then one of the host's (R50). -/
structure StaysInPB (o : Res) : Prop where
  noFault : o ≠ .fault .pbOutOfRange
  refusal : ∀ r, o = .refused r → r.ofHost

theorem StaysInPB.next (t : State) : StaysInPB (.next t) := ⟨nofun, nofun⟩

theorem StaysInPB.mapNext {g : State → State} (ho : StaysInPB o) : StaysInPB (mapNext o g) :=
  ⟨fun h => ho.noFault (mapNext_eq_fault.mp h), fun r h => ho.refusal r (mapNext_eq_refused.mp h)⟩

theorem StaysInPB.andThen {f : State → Res} (ho : StaysInPB o)
    (hf : ∀ u, o = .next u → StaysInPB (f u)) : StaysInPB (andThen o f) := by
  cases o with
  | next u => exact hf u rfl
  | fault r => exact ho
  | refused r => exact ho

/-! ### The decoder -/

/-- A strategy reads only payload bytes of the accepted frame, which fits PB (R143). -/
theorem StaysInPB.accept (hn : n.toNat ≤ s.cap.toNat) : StaysInPB (execAccept id n s) where
  noFault h := by
    rcases execAccept_eq_fault h with h | ⟨-, -, hlen, hcap⟩
    · cases h
    · omega
  refusal _ h := absurd h execAccept_ne_refused

/-- A FEED stores only below the capacity (R121), and accepts only a frame that fits (R43 item 6). -/
theorem StaysInPB.feed {x : Byte} (hi : s.Inv) : StaysInPB (execFeed x s) := by
  have e := execFeed_effect s x
  generalize execFeed x s = o at e ⊢
  cases e
  case accept hs _ => exact .accept (s := s.clearDec) (hi.payloadComplete (.inr hs)).2
  case lenient hs _ _ =>
    exact .accept (s := (s.record .ckBIgnored).clearDec) (hi.payloadComplete (.inr hs)).2
  all_goals exact .next _

/-! ### The dispatcher -/

/-- TXRX reads the payload of a frame that fits PB (R161); its transaction is no access to PB. -/
theorem StaysInPB.txrx (hn : n.toNat ≤ s.cap.toNat) : StaysInPB (execTxrx id n s) := by
  rw [execTxrx, execEncodeFrame_of_le (s := { s with dphase := .txrx }) hn, andThen_next]
  exact ⟨fun h => (nomatch transceive_eq_fault h), fun r h => absurd h transceive_ne_refused⟩

theorem StaysInPB.readChunk (s : State) : StaysInPB (execReadChunk s) :=
  ⟨fun h => (nomatch readBytes_eq_fault h), fun _ h => absurd h readBytes_ne_refused⟩

theorem StaysInPB.sessionLoop (s : State) : StaysInPB (execSessionLoop s) := by
  unfold execSessionLoop
  split <;> exact .next _

theorem StaysInPB.loopUnlessFailed (s : State) : StaysInPB (loopUnlessFailed s) := by
  unfold Machine.loopUnlessFailed
  split
  · exact .next _
  all_goals exact .sessionLoop s

theorem StaysInPB.scanUnlessFailed (s : State) : StaysInPB (scanUnlessFailed s) := by
  unfold Machine.scanUnlessFailed
  split <;> exact .next _

theorem StaysInPB.finishCommand (k : CmdKind) (s : State) : StaysInPB (finishCommand k s) := by
  unfold Machine.finishCommand
  split <;> exact .next _

/-! ### The host -/

theorem StaysInPB.admitSend (hd : s.dphase = .idle) : StaysInPB (admitSend n s (.next t)) where
  noFault := admitSend_next_ne_fault
  refusal _ h := by
    rcases admitSend_eq_refused h with rfl | ⟨-, hbusy⟩ | rfl
    · exact .inl rfl
    · exact absurd hd hbusy
    · exact .inr (.inr (.inl rfl))

theorem StaysInPB.readAll (hd : s.dphase = .idle) : StaysInPB (execReadAll s) where
  noFault := admitCommand_next_ne_fault
  refusal _ h := by
    rcases admitCommand_eq_refused h with rfl | ⟨-, hbusy⟩
    · exact .inl rfl
    · exact absurd hd hbusy

theorem StaysInPB.init {api : Bool} {cap : Half} (hd : s.dphase = .idle) :
    StaysInPB (execInit api cap s) := by
  rw [execInit_eq_next.mpr ⟨hd, rfl⟩]
  exact .next _

theorem StaysInPB.reserved : StaysInPB (.refused .reservedCommand) :=
  ⟨nofun, fun _ h => by cases h; exact .inr (.inl rfl)⟩

/-- Between commands every row of the CMD format is taken up or refused to the host (R175). -/
theorem StaysInPB.command {i : Instr} (hd : s.dphase = .idle) (hf : i.format = .cmd) :
    StaysInPB (exec i s) := by
  cases i
  case init => exact .init hd
  case sendNoWait | sendWaitReply | sendWaitAck => exact .admitSend hd
  case readAll => exact .readAll hd
  case cmdReserved5 | cmdReserved6 | cmdReserved7 => exact .reserved
  all_goals cases hf

/-- Between commands an access of the host is refused before INIT or outside PB only (R60). -/
theorem Refusal.ofHost_of_idle {r : Refusal} (hd : s.dphase = .idle)
    (h : r = .notInitialised ∨ (r = .hostWhileBusy ∧ s.dphase ≠ .idle) ∨ r = .hostOutsidePB) :
    r.ofHost := by
  rcases h with rfl | ⟨-, hbusy⟩ | rfl
  · exact .inl rfl
  · exact absurd hd hbusy
  · exact .inr (.inr (.inr rfl))

theorem StaysInPB.hostWrite {a : Nat} {v : Byte} (hd : s.dphase = .idle) :
    StaysInPB (hostWrite a v s) :=
  ⟨hostWrite_ne_fault, fun _ h => Refusal.ofHost_of_idle hd (hostWrite_eq_refused h)⟩

theorem StaysInPB.hostRead {a : Nat} (hd : s.dphase = .idle) : StaysInPB (hostRead a s) :=
  ⟨hostRead_ne_fault, fun _ h => Refusal.ofHost_of_idle hd (hostRead_eq_refused h)⟩

/-- The host's write leaves UBXC between commands, so that a send may follow it (R89). -/
theorem StaysInPB.hostWrite_then {a : Nat} {v : Byte} {f : State → Res} (hd : s.dphase = .idle)
    (hf : ∀ u : State, u.dphase = .idle → StaysInPB (f u)) :
    StaysInPB (Machine.andThen (Machine.hostWrite a v s) f) := by
  refine .andThen (.hostWrite hd) fun u hu => hf u ?_
  obtain ⟨-, -, -, rfl⟩ := hostWrite_eq_next.mp hu
  exact hd

theorem StaysInPB.pollModifySend {p : Option Byte} {e : Edit} (hd : s.dphase = .idle) :
    StaysInPB (execPollModifySend id p e s) := by
  cases p with
  | none => exact .admitSend hd
  | some b => exact .hostWrite_then hd fun u hu => .admitSend hu

/-- The compare reads a reply whose recorded length fits PB (R190). -/
theorem StaysInPB.compareAndSend {e : Edit} (hd : s.dphase = .idle)
    (hrx : s.rxLen.toNat ≤ s.cap.toNat) : StaysInPB (compareAndSend id e s) := by
  simp only [Machine.compareAndSend, hd, memReadUpTo_of_le hrx]
  split_ifs
  · contradiction
  all_goals exact .next _

/-! ### A step -/

/-- An operation on the list: between commands the idiom's send, otherwise one that the invariant lets a
command in progress perform. -/
theorem StaysInPB.run {i : Instr} {rest : List Cont} (hi : s.Inv) (ht : s.todo = .run i :: rest) :
    StaysInPB (exec i { s with todo := rest }) := by
  by_cases hd : s.dphase = .idle
  · obtain ⟨⟨id, n, rfl⟩, -⟩ := hi.run_idle ht hd
    exact .admitSend hd
  · rcases hi.run_busy ht hd with ⟨st, rfl, -⟩ | ⟨id, n, st, rfl, -⟩ | ⟨id, n, rfl, -, hn, -⟩ |
      ⟨rfl, -⟩ | ⟨rfl, -⟩ | ⟨st, rfl, -⟩
    · exact .next _
    · exact .next _
    · exact .txrx (s := { s with todo := rest }) hn
    · exact .sessionLoop _
    · exact .readChunk _
    · exact .next _

/-- The host's next action is taken up between commands. -/
theorem step_host_staysInPB (hd : s.dphase = .idle) (hc : s.chunk = []) (ht : s.todo = []) :
    StaysInPB (step s) := by
  cases hh : s.host with
  | nil => exact step_idle hc ht hh ▸ .next s
  | cons a rest =>
    have hd' : ({ s with host := rest } : State).dphase = .idle := hd
    cases a with
    | cmd w => exact step_cmd hc ht hh ▸ .command hd' (decodeCmd_format w)
    | pbWrite a v => exact step_pbWrite hc ht hh ▸ .hostWrite hd'
    | pbRead a => exact step_pbRead hc ht hh ▸ .hostRead hd'
    | poll id => exact step_poll hc ht hh ▸ .admitSend hd'
    | poll1 id b =>
      exact step_poll1 hc ht hh ▸ .hostWrite_then hd' fun u hu => .admitSend hu
    | pollModifySend id p e => exact step_pollModifySend hc ht hh ▸ .pollModifySend hd'

theorem step_staysInPB (hi : s.Inv) : StaysInPB (step s) := by
  cases hc : s.chunk with
  | cons x bytes => exact step_byte hc ▸ (StaysInPB.feed (hi.withChunk (by simp [hc]))).mapNext
  | nil =>
    cases ht : s.todo with
    | nil => exact step_host_staysInPB (hi.idle_of_todo_nil ht) hc ht
    | cons c rest =>
      cases c with
      | run i => exact step_run hc ht ▸ .run hi ht
      | loopUnlessFailed => exact step_loop hc ht ▸ .loopUnlessFailed _
      | scanUnlessFailed => exact step_scan hc ht ▸ .scanUnlessFailed _
      | finish k => exact step_finish hc ht ▸ .finishCommand k _
      | compare id e =>
        have hd := (hi.compare_idle ht).1
        exact step_compare hc ht ▸ .compareAndSend (s := { s with todo := rest }) hd hi.rxLenFits

/-- Settles O49: every kind of work a step can take up stays inside PB under the invariant. -/
theorem noAccessOutsidePB : Obligations.NoAccessOutsidePB := fun _ hi =>
  have h := step_staysInPB hi
  ⟨h.noFault, h.refusal⟩

end Sys2Proof.Machine
end

section
/-!
PROOFS, encoding: the decoder and the encoder agree (30_encoding.md R76, R86, R28, R82). A decoder row
is what some byte selects, so its statements are statements about `selectRow`; the other three spaces
are read constructor by constructor.
-/

namespace Sys2Proof.Machine

variable {p : Params} {r : DecCtx} {st : DecState} {i : Instr} {x : Byte}

/-! ### Decode words -/

/-- The row that `{st, x}` selects is about `x`, and its word is `{st, x}` (R76). -/
theorem selectRow_byte_word (p : Params) (r : DecCtx) (st : DecState) (x : Byte) :
    rowByte p (selectRow p r st x) = some x ∧
      encode p (selectRow p r st x) = some (.dec (decodeWord st x)) := by
  cases st <;> simp only [selectRow]
  case sync1 =>
    split_ifs with hsync hidle
    · subst hsync; exact ⟨rfl, rfl⟩
    · subst hidle; exact ⟨rfl, rfl⟩
    · exact ⟨rfl, rfl⟩
  case sync2 =>
    split_ifs with hsync
    · subst hsync; exact ⟨rfl, rfl⟩
    · exact ⟨rfl, rfl⟩
  case length2 =>
    split_ifs with hzero
    · obtain ⟨rfl, -⟩ := hzero; exact ⟨rfl, rfl⟩
    · exact ⟨rfl, rfl⟩
  case cls | id | length1 => exact ⟨rfl, rfl⟩
  case payload | chksum1 | chksum2 => split_ifs <;> exact ⟨rfl, rfl⟩

/-- A selected row is the one its own byte selects. -/
theorem eq_selectRow_of_rowSelected (hsel : rowSelected p r st i = true)
    (hx : rowByte p i = some x) : i = selectRow p r st x := by
  obtain ⟨y, rfl⟩ := exists_selectRow_of_rowSelected hsel
  have hy : y = x := Option.some.inj ((selectRow_byte_word p r st y).1.symm.trans hx)
  rw [hy]

/-- Settles O3: existence by the row that the byte selects, uniqueness by the byte of a selected row. -/
theorem everyDecodeWordSelectsOneRow : Obligations.EveryDecodeWordSelectsOneRow :=
  fun p r st x => ⟨decodeDec_decodeWord p r st x, rowSelected_selectRow p r st x,
    (selectRow_byte_word p r st x).1, fun _ => eq_selectRow_of_rowSelected⟩

/-! ### Command words -/

/-- Settles O4: the opcode picks the row, and the fields of the word are the operands. -/
theorem commandWordFields : Obligations.CommandWordFields := by
  intro a b
  simp [decodeCmd]

/-! ### The round trip -/

/-- The instruction has a word of its own encoding space, and that word decodes to it. -/
def DecodesBack (p : Params) (r : DecCtx) (i : Instr) : Prop :=
  ∃ c, encode p i = some c ∧ c.format = i.format ∧ decode p r c = .ok i

theorem DecodesBack.row (hf : i.format = .dec) (hsel : rowSelected p r st i = true) :
    DecodesBack p r i := by
  obtain ⟨x, rfl⟩ := exists_selectRow_of_rowSelected hsel
  exact ⟨_, (selectRow_byte_word p r st x).2, hf.symm, decodeDec_decodeWord p r st x⟩

theorem DecodesBack.command (hf : i.format = .cmd) : DecodesBack p r i := by
  have word : ∀ {w}, encode p i = some (.cmd w) → decodeCmd w = i → DecodesBack p r i :=
    fun he hd => ⟨_, he, hf.symm, congrArg _ hd⟩
  cases i
  case init api cap =>
    obtain ⟨hd, -⟩ := commandWordFields (if api then 1 else 0) cap
    refine word rfl (hd.trans ?_)
    cases api <;> rfl
  case sendNoWait id n =>
    obtain ⟨-, hd, -⟩ := commandWordFields id n
    exact word rfl hd
  case sendWaitReply id n =>
    obtain ⟨-, -, hd, -⟩ := commandWordFields id n
    exact word rfl hd
  case sendWaitAck id n =>
    obtain ⟨-, -, -, hd, -⟩ := commandWordFields id n
    exact word rfl hd
  case readAll | cmdReserved5 | cmdReserved6 | cmdReserved7 => exact word rfl rfl
  all_goals cases hf

theorem DecodesBack.strategy (hf : i.format = .strategy) : DecodesBack p r i := by
  cases i
  case stratNone | stratMatchReply | stratMatchAcknak => exact ⟨_, rfl, rfl, rfl⟩
  all_goals cases hf

/-- The two ids differ (R7), so the second is not taken for the first. -/
theorem DecodesBack.msgid (hne : p.ackAckId ≠ p.ackNakId) (hf : i.format = .msgid) :
    DecodesBack p r i := by
  cases i
  case msgidAckAck => exact ⟨_, rfl, rfl, if_pos rfl⟩
  case msgidAckNak => exact ⟨_, rfl, rfl, (if_neg hne.symm).trans (if_pos rfl)⟩
  all_goals cases hf

/-- R7 keeps the two message ids apart. -/
theorem ackIds_ne_of_valid (hp : p.valid = true) : p.ackAckId ≠ p.ackNakId := by
  simp only [Params.valid, Bool.and_eq_true, bne_iff_ne] at hp
  obtain ⟨⟨⟨⟨-, hne⟩, -⟩, -⟩, -⟩ := hp
  exact hne

/-- Settles O2, encoding space by encoding space. -/
theorem decodeEncodeAgree : Obligations.DecodeEncodeAgree := by
  intro p r st i hp _ hsel hmicro hpseudo
  cases hf : i.format with
  | dec => exact hf ▸ DecodesBack.row hf (hsel hf)
  | cmd => exact hf ▸ DecodesBack.command hf
  | strategy => exact hf ▸ DecodesBack.strategy hf
  | msgid => exact hf ▸ DecodesBack.msgid (ackIds_ne_of_valid hp) hf
  | micro => exact absurd hf hmicro
  | pseudo => exact absurd hf hpseudo

/-! ### Words written out, and words that are no row -/

/-- Settles O1, by computing the decoder on each word. -/
theorem writtenWordsDecode : Obligations.WrittenWordsDecode :=
  ⟨rfl, rfl, rfl, rfl, rfl, rfl, rfl, rfl⟩

/-- The codes of states are 0 to 8 (R79). -/
theorem ofCode?_of_reserved {c : BitVec 4} (h : 9 ≤ c.toNat) : DecState.ofCode? c = none := by
  unfold DecState.ofCode?
  split
  on_goal 10 => rfl
  all_goals omega

/-- Settles O5: no state has a reserved code, and the other two spaces name each word they accept. -/
theorem reservedCodesRejected : Obligations.ReservedCodesRejected := by
  refine ⟨fun p r w hw => ?_, fun id n => rfl, fun p w n hack hnak => ?_⟩
  · rw [decodeDec, ofCode?_of_reserved hw]
  · rw [decodeMsgId, if_neg hack, if_neg hnak]

end Sys2Proof.Machine
end

section
/-!
PROOFS, selection and expansion: a decoder row is refused exactly where it is not selected
(30_encoding.md R76), and the polls of the host expand into SEND_WAIT_REPLY (R89).
-/

namespace Sys2Proof.Machine

variable {s : State} {i : Instr} {id n : Half}

/-! ### Rows that are not selected -/

/-- A FEED is never refused: the row it performs is selected, and an accepted frame is not refused. -/
theorem execFeed_ne_refused {x : Byte} {r : Refusal} : execFeed x s ≠ .refused r := by
  intro h
  have e := execFeed_effect s x
  generalize execFeed x s = o at e h
  cases e
  case accept | lenient => exact execAccept_ne_refused h
  all_goals cases h

theorem onRow_of_not_selected {o : Res} (h : s.selects i = false) :
    onRow i s o = .refused .rowNotSelected := by
  simp [onRow, h]

/-- Every decoder row stands under the guard of its own selection (assumption log 17). -/
theorem exec_of_not_selected (hf : i.format = .dec) (h : s.selects i = false) :
    exec i s = .refused .rowNotSelected := by
  cases i
  case s1Sync | s1Idle | s1Other | s2Match | s2Miss | decClass | decId | len1 | len2Zero | len2Nz |
      payOverrun | payStore | payLast | ck1Match | ck1Miss | ck2Match | ck2Miss =>
    exact onRow_of_not_selected h
  all_goals cases hf

/-- A selected row is the FEED of its byte, so it is not refused. -/
theorem exec_ne_refused_of_selected {r : Refusal} (h : s.selects i = true) :
    exec i s ≠ .refused r := by
  obtain ⟨x, rfl⟩ := exists_selectRow_of_rowSelected h
  rw [← execFeed_eq_selectRow]
  exact execFeed_ne_refused

/-- Settles O16, by the two cases of the selection. -/
theorem unselectedRowRefused : Obligations.UnselectedRowRefused := fun _ _ hf =>
  ⟨fun h => Bool.eq_false_iff.mpr fun hsel => exec_ne_refused_of_selected hsel h,
    exec_of_not_selected hf⟩

/-! ### POLL and POLL1 -/

/-- SEND_WAIT_REPLY is accepted from an initialised idle state when its payload fits PB (R172). -/
theorem sendAndWaitReply_of_ready (hi : s.inited = true) (hd : s.dphase = .idle)
    (hn : n.toNat ≤ s.cap.toNat) :
    sendAndWaitReply id n s = .next { s with
      matchResult := .none, rxLen := 0, awaitId := id, dphase := .txrx
      todo := .run (.exchange id n .matchReply) :: .finish .reply :: s.todo } :=
  admitSend_of_ready hi hd hn

/-- With a byte of PB to write, POLL1 is SEND_WAIT_REPLY after the write (R89). -/
theorem execPoll1_of_ready {b : Byte} (hi : s.inited = true) (hd : s.dphase = .idle)
    (hcap : 0 < s.cap.toNat) :
    execPoll1 id b s = sendAndWaitReply id 1 { s with pb := Memory.set s.pb 0 b } := by
  rw [execPoll1, hostWrite_eq_next.mpr ⟨hi, hd, hcap, rfl⟩, andThen_next]

/-- Without one, the host's write is refused, and POLL1 with it (assumption log 32). -/
theorem execPoll1_of_cap_zero {b : Byte} (hi : s.inited = true) (hd : s.dphase = .idle)
    (hcap : s.cap.toNat ≤ 0) : execPoll1 id b s = .refused .hostOutsidePB := by
  obtain ⟨houtside, -⟩ := hostWrite_refusals s 0 b
  rw [execPoll1, houtside hi hd hcap, andThen_refused]

/-- Settles O43: the expansions of R89, each accepted as SEND_WAIT_REPLY is. -/
theorem pollExpansions : Obligations.PollExpansions := by
  intro s id b
  refine ⟨rfl, fun hi hd => ⟨?_, fun hcap => ?_, fun hcap => ?_⟩⟩
  · exact sendAndWaitReply_of_ready hi hd (Nat.zero_le _)
  · have hexpand := execPoll1_of_ready (id := id) (b := b) hi hd hcap
    exact ⟨hexpand, hexpand.trans
      (sendAndWaitReply_of_ready (s := { s with pb := Memory.set s.pb 0 b }) hi hd hcap)⟩
  · exact execPoll1_of_cap_zero hi hd (Nat.le_of_lt_succ hcap)

end Sys2Proof.Machine
end

section
/-!
PROOFS, the encoder against the decoder: the parts of a wire frame (30_encoding.md R70), what a clean
decoder does with a whole one (41_decoder.md R129), and the round trip of 40_checksum.md R105.
-/

namespace Sys2Proof.Machine

variable {s t : State} {id n : Half} {payload : List Byte}

/-! ### The parts of a frame -/

theorem frameBytes_length (p : Params) (hl : payload.length = n.toNat) :
    (frameBytes p id n payload).length = n.toNat + 8 := by
  simp [frameBytes, frameHeader, hl]

/-- The last two bytes of a frame are its checksum. -/
theorem frameBytes_drop_checksum (p : Params) (hl : payload.length = n.toNat) :
    (frameBytes p id n payload).drop (n.toNat + 6) =
      [(frameChecksum id n payload).1, (frameChecksum id n payload).2] :=
  List.drop_left' (by simp [frameHeader, hl])

/-- What the checksum covers: a frame without its sync bytes and its checksum. -/
theorem frameBytes_covered (p : Params) (hl : payload.length = n.toNat) :
    ((frameBytes p id n payload).drop 2).take (n.toNat + 4) = frameHeader id n ++ payload :=
  List.take_left' (by simp [frameHeader, hl])

/-- A frame is all of it but the second checksum byte, and that byte. -/
theorem frameBytes_eq_concat (p : Params) :
    frameBytes p id n payload = [p.sync1, p.sync2] ++ (frameHeader id n ++ payload) ++
      [(frameChecksum id n payload).1] ++ [(frameChecksum id n payload).2] := by
  rw [List.append_assoc]
  rfl

theorem frameBytes_take_to_ckA (p : Params) (hl : payload.length = n.toNat) :
    (frameBytes p id n payload).take (n.toNat + 7) =
      [p.sync1, p.sync2] ++ (frameHeader id n ++ payload) ++ [(frameChecksum id n payload).1] := by
  rw [frameBytes_eq_concat]
  exact List.take_left' (by simp [frameHeader, hl])

/-! ### Feeding a whole frame -/

/-- A decoder that has taken a whole frame but its second checksum byte. -/
def State.atCkB (s : State) (id n : Half) (payload : List Byte) : State :=
  { s.atChecksum id n payload with state := .chksum2 }

/-- A clean decoder takes a whole frame that fits, but its second checksum byte. -/
theorem execFeedBulk_take_to_ckA (hs : s.decClean) (hl : payload.length = n.toNat)
    (hc : n.toNat ≤ s.cap.toNat) :
    execFeedBulk ((frameBytes s.cfg id n payload).take (n.toNat + 7)) s =
      .next (s.atCkB id n payload) := by
  obtain ⟨hstate, ha, hb, -, -, hcnt⟩ := hs
  rw [frameBytes_take_to_ckA s.cfg hl]
  exact execFeedBulk_coveredCkA payload hstate ha hb hcnt hl hc

/-- The second checksum byte of such a frame is an accept, in the state RESET_DEC leaves (R129). -/
theorem execFeedBulk_frameBytes (hs : s.decClean) (hl : payload.length = n.toNat)
    (hc : n.toNat ≤ s.cap.toNat) :
    execFeedBulk (frameBytes s.cfg id n payload) s =
      execAccept id n (s.atCkB id n payload).clearDec := by
  have htaken := execFeedBulk_take_to_ckA (id := id) hs hl hc
  rw [frameBytes_take_to_ckA s.cfg hl] at htaken
  rw [frameBytes_eq_concat, execFeedBulk_concat, htaken, andThen_next]
  exact feed_accept (s := s.atCkB id n payload) rfl rfl

theorem State.decClean_clearDec (s : State) : s.clearDec.decClean := ⟨rfl, rfl, rfl, rfl, rfl, rfl⟩

/-! ### The round trip -/

/-- Storing the bytes that PB already holds leaves every read of it. -/
theorem samePB_of_setFrom_pbBytes {k : Nat}
    (h : t.pb = Memory.setFrom s.pb 0 (s.pbBytes k)) : samePB s t := by
  intro a
  rw [State.pbByte, h, Memory.get?_setFrom, if_pos (Nat.zero_le a)]
  by_cases ha : a < k
  · simp [State.pbBytes, ha]
  · simp [State.pbBytes, ha, State.pbByte]

/-- The state that ENCODE answers inside PB. -/
def State.encoded (s : State) (id n : Half) : State :=
  { s.setCkPair .tx (frameChecksum id n (s.pbBytes n.toNat)) with
    txFrame := frameBytes s.cfg id n (s.pbBytes n.toNat) }

theorem execEncodeFrame_eq_encoded (hn : n.toNat ≤ s.cap.toNat) :
    execEncodeFrame id n s = .next (s.encoded id n) := execEncodeFrame_of_le hn

/-- ENCODE leaves the decoder alone. -/
theorem State.decClean.encoded (hs : s.decClean) (id n : Half) : (s.encoded id n).decClean := hs

/-- Settles O24: ENCODE's frame is the whole frame of the first `n` bytes of PB, whose parts the encoder's
clauses name and whose bytes a clean decoder takes up to the accept. -/
theorem encodeThenDecode : Obligations.EncodeThenDecode := by
  intro s id n hs hn
  have hl : (s.pbBytes n.toNat).length = n.toNat := s.pbBytes_length _
  have hclean : (s.encoded id n).decClean := hs.encoded id n
  refine ⟨s.encoded id n, (State.atCkB (s.encoded id n) id n (s.pbBytes n.toNat)).clearDec,
    State.atCkB (s.encoded id n) id n (s.pbBytes n.toNat), execEncodeFrame_eq_encoded hn,
    frameBytes_length s.cfg hl, (frameBytes_drop_checksum s.cfg hl).symm, ?covered,
    execFeedBulk_take_to_ckA hclean hl hn, rfl, rfl, execFeedBulk_frameBytes hclean hl hn,
    samePB_of_setFrom_pbBytes rfl, State.decClean_clearDec _⟩
  case covered => exact congrArg (ckFold (0, 0)) (frameBytes_covered s.cfg hl).symm

end Sys2Proof.Machine
end

section
/-!
PROOFS, the checksum engine (40_checksum.md): the operations on either accumulator pair (R100 to R102), and
the closed form of the fold with what follows from it (R103).
-/

namespace Sys2Proof.Machine

variable {s : State} {p : CkPair}

/-! ### The operations on a pair -/

@[simp] theorem State.setCkPair_ckPair (s : State) (p : CkPair) : s.setCkPair p (s.ckPair p) = s := by
  cases p <;> rfl

/-- The second write of a pair stands. -/
@[simp] theorem State.setCkPair_setCkPair (s : State) (p : CkPair) (v w : Byte × Byte) :
    (s.setCkPair p v).setCkPair p w = s.setCkPair p w := by
  cases p <;> rfl

theorem ckUpdate_fst_toNat (acc : Byte × Byte) (x : Byte) :
    (ckUpdate acc x).1.toNat = (acc.1.toNat + x.toNat) % 256 := BitVec.toNat_add ..

theorem ckUpdate_snd_toNat (acc : Byte × Byte) (x : Byte) :
    (ckUpdate acc x).2.toNat = (acc.2.toNat + (ckUpdate acc x).1.toNat) % 256 := BitVec.toNat_add ..

/-- Settles O6: the two sums of `ckUpdate`, written to the pair. -/
theorem checksumInitAndUpdate : Obligations.ChecksumInitAndUpdate := fun p x s =>
  ⟨rfl, _, _, rfl, ckUpdate_fst_toNat (s.ckPair p) x, ckUpdate_snd_toNat (s.ckPair p) x⟩

theorem execCkFold_nil : execCkFold p [] s = .next s :=
  congrArg Host.Outcome.next (s.setCkPair_ckPair p)

theorem execCkFold_append (xs ys : List Byte) :
    execCkFold p (xs ++ ys) s = andThen (execCkFold p xs s) (execCkFold p ys) := by
  simp [execCkFold, ckFold_append]

theorem execCkFold_cons (x : Byte) (xs : List Byte) :
    execCkFold p (x :: xs) s = andThen (execCkUpdate p x s) (execCkFold p xs) :=
  execCkFold_append [x] xs

/-- Settles O7: the fold's equations for the empty sequence, a first byte and a concatenation. -/
theorem checksumFoldIsRepeatedUpdate : Obligations.ChecksumFoldIsRepeatedUpdate :=
  fun _ x xs ys _ => ⟨execCkFold_nil, execCkFold_cons x xs, execCkFold_append xs ys, _, _, rfl⟩

/-! ### The closed form -/

/-- The sum of the bytes weighted by their distance to the end (R103). -/
def weightedSum (xs : List Byte) : Nat :=
  ((List.range xs.length).map fun i => (xs.length - i) * (xs.getD i 0).toNat).sum

theorem weightedSum_nil : weightedSum [] = 0 := rfl

/-- A first byte weighs the whole length; the others weigh what they did. -/
theorem weightedSum_cons (x : Byte) (xs : List Byte) :
    weightedSum (x :: xs) = (xs.length + 1) * x.toNat + weightedSum xs := by
  simp [weightedSum, List.range_succ_eq_map, Function.comp_def]

theorem ckFold_fst_toNat (acc : Byte × Byte) (xs : List Byte) :
    (ckFold acc xs).1.toNat = (acc.1.toNat + (xs.map BitVec.toNat).sum) % 256 := by
  induction xs generalizing acc with
  | nil => exact (Nat.mod_eq_of_lt acc.1.isLt).symm
  | cons x xs ih =>
    rw [ckFold, ih, ckUpdate_fst_toNat, Nat.mod_add_mod, List.map_cons, List.sum_cons, Nat.add_assoc]

/-- Every byte adds the first accumulator, which then holds the seed and the bytes so far, to the second. -/
theorem ckFold_snd_toNat (acc : Byte × Byte) (xs : List Byte) :
    (ckFold acc xs).2.toNat =
      (acc.2.toNat + xs.length * acc.1.toNat + weightedSum xs) % 256 := by
  induction xs generalizing acc with
  | nil => simpa [ckFold, weightedSum_nil] using (Nat.mod_eq_of_lt acc.2.isLt).symm
  | cons x xs ih =>
    have hfst : (acc.1.toNat + x.toNat) % 256 ≡ acc.1.toNat + x.toNat [MOD 256] := Nat.mod_modEq ..
    rw [ckFold, ih, ckUpdate_snd_toNat, ckUpdate_fst_toNat, weightedSum_cons, List.length_cons]
    calc
      _ ≡ acc.2.toNat + (acc.1.toNat + x.toNat) + xs.length * (acc.1.toNat + x.toNat) +
          weightedSum xs [MOD 256] :=
        (((Nat.mod_modEq ..).trans (hfst.add_left _)).add (hfst.mul_left _)).add_right _
      _ = _ := by ring

/-! ### What the checksum detects -/

/-- A permutation of the bytes leaves the first accumulator. -/
theorem ckFold_fst_perm {xs ys : List Byte} (h : xs.Perm ys) :
    (ckFold (0, 0) xs).1 = (ckFold (0, 0) ys).1 := by
  apply BitVec.eq_of_toNat_eq
  rw [ckFold_fst_toNat, ckFold_fst_toNat, (h.map BitVec.toNat).sum_eq]

/-- From any seed, two bytes that differ give different first accumulators, whatever follows. -/
theorem ckFold_fst_ne {x y : Byte} (h : x ≠ y) (acc : Byte × Byte) (post : List Byte) :
    (ckFold acc (x :: post)).1 ≠ (ckFold acc (y :: post)).1 := by
  intro heq
  have hsum := congrArg BitVec.toNat heq
  simp only [ckFold_fst_toNat, List.map_cons, List.sum_cons] at hsum
  exact h (BitVec.eq_of_toNat_eq (by omega))

/-- At an even weight a change of 0x80 is a multiple of 256. -/
theorem even_mul_add_0x80 {k : Nat} (hk : k % 2 = 0) (x : Byte) :
    k * (x + 0x80).toNat ≡ k * x.toNat [MOD 256] := by
  obtain ⟨j, rfl⟩ := Nat.dvd_of_mod_eq_zero hk
  have hadd : (x + 0x80).toNat ≡ x.toNat + 128 [MOD 256] := by
    rw [BitVec.toNat_add]
    exact Nat.mod_modEq ..
  calc
    2 * j * (x + 0x80).toNat ≡ 2 * j * (x.toNat + 128) [MOD 256] := hadd.mul_left _
    _ = 2 * j * x.toNat + 256 * j := by ring
    _ ≡ 2 * j * x.toNat [MOD 256] := Nat.add_modulus_mul_modEq_iff.mpr rfl

/-- From any seed, a change of 0x80 to a byte of even weight leaves the second accumulator. -/
theorem ckFold_snd_add_0x80 {post : List Byte} (h : (post.length + 1) % 2 = 0) (acc : Byte × Byte)
    (x : Byte) : (ckFold acc (x :: post)).2 = (ckFold acc ((x + 0x80) :: post)).2 := by
  apply BitVec.eq_of_toNat_eq
  simp only [ckFold_snd_toNat, weightedSum_cons, List.length_cons]
  exact (((even_mul_add_0x80 h x).add_right _).add_left _).symm

/-! ### Equal bytes -/

/-- `k` equal bytes weigh the triangular number of `k` together. -/
theorem weightedSum_replicate (k : Nat) (v : Byte) :
    weightedSum (List.replicate k v) = (k + 1) * k / 2 * v.toNat := by
  induction k with
  | zero => simp [weightedSum_nil]
  | succ k ih =>
    have htriangle : (k + 1 + 1) * (k + 1) / 2 = (k + 1) * k / 2 + (k + 1) := Nat.triangle_succ (k + 1)
    rw [List.replicate_succ, weightedSum_cons, List.length_replicate, ih, htriangle]
    ring

theorem ckFold_fst_replicate_toNat (k : Nat) (v : Byte) :
    (ckFold (0, 0) (List.replicate k v)).1.toNat = k * v.toNat % 256 := by
  simp [ckFold_fst_toNat, List.map_replicate, List.sum_replicate]

theorem ckFold_snd_replicate_toNat (k : Nat) (v : Byte) :
    (ckFold (0, 0) (List.replicate k v)).2.toNat = (k + 1) * k / 2 * v.toNat % 256 := by
  simp [ckFold_snd_toNat, weightedSum_replicate]

theorem ckFold_fst_replicate_256 (v : Byte) : (ckFold (0, 0) (List.replicate 256 v)).1 = 0 :=
  BitVec.eq_of_toNat_eq ((ckFold_fst_replicate_toNat 256 v).trans (Nat.mul_mod_right 256 v.toNat))

theorem ckFold_replicate_256_0xFF : ckFold (0, 0) (List.replicate 256 0xFF) = (0x00, 0x80) :=
  Prod.ext (ckFold_fst_replicate_256 0xFF)
    (BitVec.eq_of_toNat_eq ((ckFold_snd_replicate_toNat 256 0xFF).trans (by decide)))

/-- Settles O8: the closed form by induction on the bytes, its consequences from the closed form. -/
theorem checksumClosedForm : Obligations.ChecksumClosedForm := by
  refine ⟨fun xs => ⟨?fst, ?snd⟩, fun _ _ => ckFold_fst_perm, ⟨[1, 2], [2, 1], ?swap⟩,
    fun pre post x y hne => ?change, fun pre post x heven => ?shift, ckFold_fst_replicate_256,
    ckFold_replicate_256_0xFF⟩
  case fst => simpa using ckFold_fst_toNat (0, 0) xs
  case snd => simpa [weightedSum] using ckFold_snd_toNat (0, 0) xs
  case swap => exact ⟨List.Perm.swap 2 1 [], by decide⟩
  case change =>
    rw [ckFold_append, ckFold_append]
    exact ckFold_fst_ne hne _ post
  case shift =>
    rw [ckFold_append, ckFold_append]
    exact ckFold_snd_add_0x80 heven _ x

end Sys2Proof.Machine
end

section
/-!
PROOFS, decoder: each row of 30_encoding.md R76 with its selection and its whole effect (41_decoder.md R111
to R126). In the state a row is about, performing it is feeding a byte that selects it, so each row's effect
is FEED's equation for that line.
-/

namespace Sys2Proof.Machine

variable {s t : State} {x : Byte}

/-- Settles O17: `clearDec` is the update that R111 writes out. -/
theorem resetDecResult : Obligations.ResetDecResult := fun _ => rfl

/-- Settles O18: the decode word decodes to the selected row, which is what FEED performs. -/
theorem feedPerformsTheDecodedRow : Obligations.FeedPerformsTheDecodedRow := by
  intro s x i h
  rw [decodeDec_decodeWord] at h
  cases h
  exact execFeed_eq_selectRow s x

/-- The row that a byte selects in the state at hand is decoded from that state and byte, and does what FEED
of the byte does (R76, R110). -/
theorem row_of_feed {st : DecState} {i : Instr} {o : Res} (hst : s.state = st)
    (hrow : selectRow s.cfg s.decCtx st x = i) (hfeed : execFeed x s = o) :
    decodeDec s.cfg s.decCtx (decodeWord st x) = .ok i ∧ exec i s = o := by
  subst hst hrow
  exact ⟨decodeDec_decodeWord .., (execFeed_eq_selectRow s x).symm.trans hfeed⟩

/-! ### Values the rows write -/

@[simp] theorem lowByte_toNat (v : Half) : (lowByte v).toNat = v.toNat % 256 := by simp [lowByte]

theorem eq_joinBytes_of_toNat {v : Half} {hi : Byte} {w : Half}
    (h : v.toNat = 256 * hi.toNat + w.toNat % 256) : v = joinBytes hi (lowByte w) :=
  BitVec.eq_of_toNat_eq (by rw [h, joinBytes_toNat, lowByte_toNat])

/-- The byte written reads back, and every other byte of PB reads as before (20_memory.md R63). -/
theorem pbByte_of_set {a : Nat} (h : t.pb = Memory.set s.pb a x) :
    t.pbByte a = x ∧ samePBOutside a 1 s t := by
  have hread : ∀ b, t.pbByte b = if a = b then x else s.pbByte b := fun b =>
    (State.pbByte_congr { s with pb := Memory.set s.pb a x } t h b).trans (s.pbByte_set a b x)
  exact ⟨(hread a).trans (if_pos rfl), fun b hb => (hread b).trans (if_neg (by omega))⟩

/-- A stored byte that is the last of the payload completes it (R121). -/
theorem stored_state_of_last (h : s.cnt + 1 = s.len) : (s.stored x).state = .chksum1 := if_pos h

theorem stored_state_of_not_last (h : s.cnt + 1 ≠ s.len) : (s.stored x).state = .payload := if_neg h

/-- A wrong second sync byte is FE_SYNC2 (R116). -/
theorem feed_miss2 (h : s.state = .sync2) (hx : x ≠ s.cfg.sync2) :
    execFeed x s = .next (s.framed .feSync2) := by
  have e := execFeed_effect s x
  generalize execFeed x s = o at e ⊢
  cases e <;> simp_all

/-! ### The rows, state by state -/

/-- Settles O9: the byte selects among the three lines of SYNC1, and the idle count saturates. -/
theorem huntRows : Obligations.HuntRows := by
  intro s hs
  refine ⟨row_of_feed hs (if_pos rfl) (feed_sync hs rfl), fun hidle => ?idle, fun x hsync hidle =>
    row_of_feed hs ((if_neg hsync).trans (if_neg hidle)) (feed_noise hs hsync hidle)⟩
  case idle =>
    obtain ⟨hdecode, hexec⟩ :=
      row_of_feed hs ((if_neg hidle).trans (if_pos rfl)) (feed_idle hs hidle rfl)
    exact ⟨hdecode, satInc16 s.idleRun, satInc16_toNat s.idleRun, hexec⟩

/-- Settles O10: a match by its line of R131, a miss as a framing error. -/
theorem secondSyncRows : Obligations.SecondSyncRows := fun _ hs =>
  ⟨row_of_feed hs (if_pos rfl) (feed_match2 hs rfl), fun _ hx =>
    row_of_feed hs (if_neg hx) (feed_miss2 hs hx)⟩

/-- Settles O11: the id's value is that of the assembled bytes. -/
theorem classAndIdRows : Obligations.ClassAndIdRows := by
  intro s x
  constructor
  · intro hs
    obtain ⟨hdecode, hexec⟩ := row_of_feed hs rfl (feed_cls (x := x) hs)
    exact ⟨hdecode, zext16 x, zext16_toNat x, hexec⟩
  · intro hs
    obtain ⟨hdecode, hexec⟩ := row_of_feed hs rfl (feed_id (x := x) hs)
    exact ⟨hdecode, joinBytes (lowByte s.msgId) x, by rw [joinBytes_toNat, lowByte_toNat], hexec⟩

/-- Settles O12: the assembled length is zero exactly where LEN2_ZERO is selected. -/
theorem lengthRows : Obligations.LengthRows := by
  intro s x
  refine ⟨fun hs => ?length1, fun hs v hv => ?length2⟩
  case length1 =>
    obtain ⟨hdecode, hexec⟩ := row_of_feed hs rfl (feed_length1 (x := x) hs)
    exact ⟨hdecode, zext16 x, zext16_toNat x, hexec⟩
  case length2 =>
    obtain rfl := eq_joinBytes_of_toNat hv
    have hfeed := feed_length2 (x := x) hs
    constructor
    · intro hzero
      rw [if_pos hzero] at hfeed
      exact row_of_feed hs (if_pos (joinBytes_eq_zero.mp hzero)) hfeed
    · intro hpos
      rw [if_neg hpos] at hfeed
      exact row_of_feed hs (if_neg (mt joinBytes_eq_zero.mpr hpos)) hfeed

/-- Settles O13: the two rows that store are `stored`, told apart by the declared length. -/
theorem payloadRows : Obligations.PayloadRows := by
  intro s x hs
  refine ⟨fun hfull => row_of_feed hs (if_pos hfull) (feed_overrun hs hfull),
    fun hroom hmore => ?store, fun hroom hlast => ?last, succ_toNat, fun _ => pbByte_of_set⟩
  case store =>
    refine row_of_feed hs ((if_neg (Nat.not_le.mpr hroom)).trans (if_neg hmore)) ?_
    rw [feed_store hs hroom, State.stored, if_neg hmore, ← hs]
    rfl
  case last =>
    refine row_of_feed hs ((if_neg (Nat.not_le.mpr hroom)).trans (if_pos hlast)) ?_
    rw [feed_store hs hroom, State.stored, if_pos hlast, hlast]
    rfl

/-- Settles O14: a match by its line of R131, a miss as a framing error. -/
theorem firstChecksumRows : Obligations.FirstChecksumRows := fun _ _ hs =>
  ⟨fun hx => row_of_feed hs (if_pos hx) (feed_match1 hs hx),
    fun hx => row_of_feed hs (if_neg hx) (feed_miss1 hs hx)⟩

/-- Settles O15: a miss is decided by CK2_STRICT. -/
theorem secondChecksumRows : Obligations.SecondChecksumRows := by
  intro s x hs
  refine ⟨fun hx => row_of_feed hs (if_pos hx) (feed_accept hs hx), fun hx => ?miss⟩
  case miss =>
    have hrow : selectRow s.cfg s.decCtx .chksum2 x = .ck2Miss x := if_neg hx
    obtain ⟨hdecode, hexec⟩ := row_of_feed hs hrow rfl
    exact ⟨hdecode, fun hstrict => hexec.trans (feed_strict hs hx hstrict),
      fun hlenient => hexec.trans (feed_lenient hs hx hlenient)⟩

end Sys2Proof.Machine
end

section
/-!
PROOFS, decoder: what every FEED leaves behind. It is quiet or it accepts (41_decoder.md R127), it moves along
one entry of R131's table, and it writes no more than the frame of R110.
-/

namespace Sys2Proof.Machine

variable {s t u : State} {x : Byte} {o : Res}

theorem eq_of_next (h : o = .next t) (h' : o = .next u) : t = u :=
  Host.Outcome.next.inj (h.symm.trans h')

/-! ### Quiet and accepting FEEDs -/

/-- None of the events is a frame-accept event. -/
def noAccept (es : List TraceEvent) : Prop := ∀ id n, TraceEvent.accepted id n ∉ es

theorem noAccept_nil : noAccept [] := fun _ _ => List.not_mem_nil

theorem noAccept_singleton {e : TraceEvent} (h : ∀ id n, TraceEvent.accepted id n ≠ e) :
    noAccept [e] := fun id n hmem => h id n (List.mem_singleton.mp hmem)

/-- A FEED that returns PARSING: it accepts nothing, and no strategy or consumer is asked. -/
structure QuietFeed (s t : State) : Prop where
  parsing : t.feedRes = .parsing
  events : ∃ new, t.trace = new ++ s.trace ∧ noAccept new
  matchResult : t.matchResult = s.matchResult
  rxLen : t.rxLen = s.rxLen
  api : sameApi s t

/-- A FEED that ends in ACCEPT of the frame `(msg_id, len)` (R125): its one frame-accept event, with `before`
it at most a mark and `after` it at most a delivery. -/
structure AcceptingFeed (s t : State) : Prop where
  answered : t.feedRes ≠ .parsing
  events : ∃ after before, t.trace = after ++ .accepted s.msgId s.len :: (before ++ s.trace) ∧
    noAccept after ∧ noAccept before

/-- A framing error is quiet (R201). -/
theorem QuietFeed.framed (s : State) {e : TraceEvent} (he : ∀ id n, TraceEvent.accepted id n ≠ e) :
    QuietFeed s (s.framed e) :=
  ⟨rfl, ⟨[e], rfl, noAccept_singleton he⟩, rfl, rfl, rfl, rfl⟩

/-- What ACCEPT leaves of `state`, the result and the trace (R140). -/
theorem execAccept_effect {id n : Half} (h : execAccept id n s = .next t) :
    t.state = s.state ∧ t.feedRes ≠ .parsing ∧
      ∃ after, t.trace = after ++ .accepted id n :: s.trace ∧ noAccept after := by
  obtain ⟨m, l, r, after, a, f, rfl, hr, -, hafter⟩ := execAccept_shape h
  refine ⟨rfl, ?result, after, rfl, ?events⟩
  case result => rcases hr with rfl | rfl <;> exact nofun
  case events =>
    rcases hafter with ⟨rfl, -⟩ | ⟨rfl, -⟩
    · exact noAccept_nil
    · exact noAccept_singleton nofun

/-- A FEED is quiet unless it takes one of the two entries of R131 that accept. -/
theorem execFeed_quiet_or_accepting (h : execFeed x s = .next t) :
    QuietFeed s t ∨ AcceptingFeed s t := by
  have e := execFeed_effect s x
  rw [h] at e
  generalize ho : (Host.Outcome.next t : Res) = o at e
  cases e
  case accept =>
    obtain ⟨-, hres, after, htrace, hafter⟩ := execAccept_effect ho.symm
    exact .inr ⟨hres, after, [], htrace, hafter, noAccept_nil⟩
  case lenient =>
    obtain ⟨-, hres, after, htrace, hafter⟩ := execAccept_effect ho.symm
    exact .inr ⟨hres, after, [.ckBIgnored], htrace, hafter, noAccept_singleton nofun⟩
  all_goals
    cases ho
    left
  case miss2 | overrun | miss1 | strict => exact .framed s nofun
  all_goals exact ⟨rfl, ⟨[], rfl, noAccept_nil⟩, rfl, rfl, rfl, rfl⟩

/-- The events of an accepting FEED hold its frame-accept event once, and no other. -/
theorem count_accepted {id n : Half} {after before : List TraceEvent} (hafter : noAccept after)
    (hbefore : noAccept before) :
    (after ++ .accepted id n :: before).count (.accepted id n) = 1 ∧
      ∀ id' n', .accepted id' n' ∈ after ++ .accepted id n :: before → id' = id ∧ n' = n := by
  constructor
  · rw [List.count_append, List.count_cons_self, List.count_eq_zero_of_not_mem (hafter id n),
      List.count_eq_zero_of_not_mem (hbefore id n)]
  · intro id' n' hmem
    simpa [hafter id' n', hbefore id' n'] using hmem

/-- Settles O19: a quiet FEED adds no frame-accept event, an accepting one adds exactly its own. -/
theorem feedParsingIffNoAccept : Obligations.FeedParsingIffNoAccept := by
  intro s t x h
  rcases execFeed_quiet_or_accepting h with hquiet | haccept
  · obtain ⟨new, htrace, hnew⟩ := hquiet.events
    exact ⟨new, htrace, iff_of_true hquiet.parsing hnew, absurd hquiet.parsing⟩
  · obtain ⟨after, before, htrace, hafter, hbefore⟩ := haccept.events
    obtain ⟨hcount, honly⟩ := count_accepted hafter hbefore
    refine ⟨after ++ .accepted s.msgId s.len :: before, by simpa using htrace, iff_of_false
      haccept.answered fun hnone => ?_, fun _ => ⟨hcount, honly⟩⟩
    exact hnone s.msgId s.len (by simp)

/-! ### R131's table -/

/-- An entry that returns PARSING, read off FEED's equation for it. -/
theorem parsing_entry {st : DecState} {events : List TraceEvent} (h : execFeed x s = .next t)
    (hfeed : execFeed x s = .next u) (hstate : u.state = st) (hres : u.feedRes = .parsing)
    (htrace : u.trace = events) : t.state = st ∧ t.feedRes = .parsing ∧ t.trace = events := by
  obtain rfl := eq_of_next h hfeed
  exact ⟨hstate, hres, htrace⟩

/-- An entry that accepts: the decoder was reset before (R125). -/
theorem accept_entry {id n : Half} (h : execFeed x s = .next t)
    (hfeed : execFeed x s = execAccept id n u.clearDec) :
    t.state = .sync1 ∧ t.feedRes ≠ .parsing ∧
      ∃ new, t.trace = new ++ .accepted id n :: u.trace := by
  obtain ⟨hstate, hres, after, htrace, -⟩ := execAccept_effect (hfeed.symm.trans h)
  exact ⟨hstate, hres, after, htrace⟩

/-- Settles O20: each entry from FEED's equation for that line of R131. -/
theorem transitionRelation : Obligations.TransitionRelation := by
  intro s t x h
  refine ⟨fun hs hx => parsing_entry h (feed_sync hs hx) rfl rfl rfl, fun hs hx hi => ?idle,
    fun hs hx hi => ?noise, fun hs hx => parsing_entry h (feed_match2 hs hx) rfl rfl rfl,
    fun hs hx => parsing_entry h (feed_miss2 hs hx) rfl rfl rfl,
    fun hs => parsing_entry h (feed_cls hs) rfl rfl rfl,
    fun hs => parsing_entry h (feed_id hs) rfl rfl rfl,
    fun hs => parsing_entry h (feed_length1 hs) rfl rfl rfl, fun hs hzero => ?lenZero,
    fun hs hpos => ?lenPos, fun hs hfull => parsing_entry h (feed_overrun hs hfull) rfl rfl rfl,
    fun hs hroom hmore => ?store, fun hs hroom hlast => ?last,
    fun hs hx => parsing_entry h (feed_match1 hs hx) rfl rfl rfl,
    fun hs hx => parsing_entry h (feed_miss1 hs hx) rfl rfl rfl,
    fun hs hx => accept_entry h (feed_accept hs hx),
    fun hs hx hstrict => parsing_entry h (feed_strict hs hx hstrict) rfl rfl rfl,
    fun hs hx hlenient => accept_entry h (feed_lenient hs hx hlenient)⟩
  case idle =>
    obtain rfl := eq_of_next h (feed_idle hs hx hi)
    exact ⟨hs, satInc16_toNat s.idleRun, rfl, rfl⟩
  case noise =>
    obtain rfl := eq_of_next h (feed_noise hs hx hi)
    exact ⟨hs, rfl, rfl, rfl⟩
  case lenZero =>
    obtain rfl := eq_of_next h (feed_length2 hs)
    exact ⟨if_pos hzero, rfl, rfl⟩
  case lenPos =>
    obtain rfl := eq_of_next h (feed_length2 hs)
    exact ⟨if_neg hpos, rfl, rfl⟩
  case store =>
    have hne : s.cnt + 1 ≠ s.len := fun heq => by
      rw [← heq, succ_toNat hroom] at hmore
      exact Nat.lt_irrefl _ hmore
    obtain rfl := eq_of_next h (feed_store hs hroom)
    exact ⟨stored_state_of_not_last hne, (pbByte_of_set rfl).1, rfl, rfl⟩
  case last =>
    have heq : s.cnt + 1 = s.len := BitVec.eq_of_toNat_eq ((succ_toNat hroom).trans hlast)
    obtain rfl := eq_of_next h (feed_store hs hroom)
    exact ⟨stored_state_of_last heq, (pbByte_of_set rfl).1, rfl, rfl⟩

/-! ### The frame -/

/-- The fields a FEED may write: the per-frame registers and `idle_run`, PB, and what an accept leaves. -/
theorem execFeed_eq_next (h : execFeed x s = .next t) :
    ∃ st a b id n c i m l pb api r tr k, t = { s with
      state := st, ckA := a, ckB := b, msgId := id, len := n, cnt := c, idleRun := i
      matchResult := m, rxLen := l, pb := pb, api := api, feedRes := r, trace := tr, fresh := k } := by
  have e := execFeed_effect s x
  rw [h] at e
  generalize ho : (Host.Outcome.next t : Res) = o at e
  cases e
  case accept | lenient =>
    obtain ⟨m, l, r, d, a, f, rfl, -⟩ := execAccept_shape ho.symm
    exact ⟨_, _, _, _, _, _, _, _, _, _, _, _, _, _, rfl⟩
  all_goals
    cases ho
    exact ⟨_, _, _, _, _, _, _, _, _, _, _, _, _, _, rfl⟩

/-- Outside PAYLOAD, and past the capacity, a FEED writes no PB (R121, R122). -/
theorem execFeed_keeps_pb (h : execFeed x s = .next t)
    (hs : s.state ≠ .payload ∨ s.cap.toNat ≤ s.cnt.toNat) : t.pb = s.pb := by
  have e := execFeed_effect s x
  rw [h] at e
  generalize ho : (Host.Outcome.next t : Res) = o at e
  cases e
  case accept | lenient =>
    obtain ⟨m, l, r, d, a, f, rfl, -⟩ := execAccept_shape ho.symm
    rfl
  case store hpay hroom =>
    rcases hs with hne | hfull
    · exact absurd hpay hne
    · exact absurd hroom (Nat.not_lt.mpr hfull)
  all_goals
    cases ho
    rfl

/-- Settles O21: registers and ports by what a FEED may write, PB by the two cases of a payload byte. -/
theorem feedFrame : Obligations.FeedFrame := by
  intro s t x h
  refine ⟨?regs, fun hres => ?quiet, fun hs hroom => ?stored,
    fun hs => State.pbByte_congr s t (execFeed_keeps_pb h hs), ?transport, ?control⟩
  case regs =>
    obtain ⟨st, a, b, id, n, c, i, m, l, pb, api, r, tr, k, rfl⟩ := execFeed_eq_next h
    intro reg hreg
    cases reg
    case state | ckA | ckB | msgId | len | cnt | idleRun | matchResult | rxLen =>
      exact absurd hreg (by decide)
    all_goals rfl
  case quiet =>
    obtain hquiet | haccept := execFeed_quiet_or_accepting h
    · exact ⟨hquiet.matchResult, hquiet.rxLen, hquiet.api⟩
    · exact absurd hres haccept.answered
  case stored =>
    obtain rfl := eq_of_next h (feed_store hs hroom)
    exact pbByte_of_set rfl
  case transport =>
    obtain ⟨st, a, b, id, n, c, i, m, l, pb, api, r, tr, k, rfl⟩ := execFeed_eq_next h
    exact ⟨rfl, rfl, rfl, rfl⟩
  case control =>
    obtain ⟨st, a, b, id, n, c, i, m, l, pb, api, r, tr, k, rfl⟩ := execFeed_eq_next h
    exact ⟨rfl, rfl, rfl, rfl, rfl, rfl, rfl⟩

end Sys2Proof.Machine
end

section
/-!
PROOFS, decoder: feeding many bytes. In bulk it is feeding one by one (41_decoder.md R128); a whole frame is
accepted, rejected or aborted (R129); and under the invariant it completes, whatever the bytes (R132).
-/

namespace Sys2Proof.Machine

variable {s t u : State} {x : Byte} {id n : Half} {payload : List Byte}

/-- Settles O22, by the bulk feed of a concatenation. -/
theorem bulkFeedIsByteFeed : Obligations.BulkFeedIsByteFeed := fun s x xs ys =>
  ⟨rfl, execFeedBulk_concat [] x s, execFeedBulk_append xs ys s⟩

/-! ### A whole frame -/

/-- In PAYLOAD a decoder stores the bytes up to the capacity, and overruns at the next one if the declared
length is more than that (R122). -/
theorem execFeedBulk_payload_overrun (ps : List Byte) (x : Byte) (hr : s.feedRes = .parsing)
    (hs : s.state = .payload) (hfill : s.cnt.toNat + ps.length = s.cap.toNat)
    (hlong : s.cap.toNat < s.len.toNat) :
    execFeedBulk (ps ++ [x]) s = .next (State.framed
      { s with pb := Memory.setFrom s.pb s.cnt.toNat ps } .feOverrun) := by
  have hopen : s.cnt ≠ s.len := by
    intro h
    rw [h] at hfill
    omega
  rw [execFeedBulk_concat, execFeedBulk_payload ps hr (by rw [hs, if_neg hopen]) (by omega)
    (Nat.le_of_eq hfill), andThen_next, feed_overrun]
  · rfl
  · exact if_neg (by omega)
  · simp [hfill]

/-- A hunting decoder takes the header of a frame that does not fit, stores what does, and overruns. -/
theorem execFeedBulk_overrun (h : s.state = .sync1) (ha : s.ckA = 0) (hb : s.ckB = 0)
    (hcnt : s.cnt = 0) (hl : payload.length = n.toNat) (hlong : s.cap.toNat < n.toNat) :
    execFeedBulk ([s.cfg.sync1, s.cfg.sync2] ++ frameHeader id n ++
        payload.take (s.cap.toNat + 1)) s =
      .next (State.framed
        { s with pb := Memory.setFrom s.pb 0 (payload.take s.cap.toNat), feedRes := .parsing }
        .feOverrun) := by
  have hn : n ≠ 0 := by
    rintro rfl
    exact Nat.not_lt_zero _ hlong
  have hfill : s.cnt.toNat + (payload.take s.cap.toNat).length = s.cap.toNat := by
    rw [hcnt, List.length_take, hl, Nat.min_eq_left (Nat.le_of_lt hlong)]
    exact Nat.zero_add _
  rw [List.take_succ_eq_append_getElem (hl ▸ hlong), execFeedBulk_append, execFeedBulk_header h ha hb,
    andThen_next, execFeedBulk_payload_overrun]
  · simp only [hcnt]
    rfl
  · rfl
  · exact if_neg hn
  · exact hfill
  · exact hlong

/-- Settles O23: a frame that fits is taken up to its checksum, whose two bytes decide; any other overruns. -/
theorem wholeFrameBehaviour : Obligations.WholeFrameBehaviour := by
  intro s id n payload hs ha hb hcnt hl done covered ck
  refine ⟨fun hfits => ?_, execFeedBulk_overrun hs ha hb hcnt hl⟩
  have hcovered : execFeedBulk covered s = .next (s.atChecksum id n payload) :=
    execFeedBulk_covered payload hs ha hb hcnt hl hfits
  have hfirst : ∀ k0, execFeedBulk (covered ++ [k0]) s = execFeed k0 (s.atChecksum id n payload) := by
    intro k0
    rw [execFeedBulk_concat, hcovered, andThen_next]
  have hckA : execFeedBulk (covered ++ [ck.1]) s = .next (s.atCkB id n payload) :=
    execFeedBulk_coveredCkA payload hs ha hb hcnt hl hfits
  have hlast : ∀ k1, execFeedBulk (covered ++ [ck.1, k1]) s = execFeed k1 (s.atCkB id n payload) := by
    intro k1
    rw [List.append_cons, execFeedBulk_concat, hckA, andThen_next]
  exact ⟨(hlast ck.2).trans (feed_accept rfl rfl),
    fun k0 hk0 => (hfirst k0).trans (feed_miss1 rfl hk0),
    fun k1 hk1 hstrict => (hlast k1).trans (feed_strict rfl hk1 hstrict),
    fun k1 hk1 hlenient => (hlast k1).trans (feed_lenient rfl hk1 hlenient)⟩

/-! ### Feeding completes -/

/-- ACCEPT finds the consumer silent only when its next answer is (R146). -/
theorem nextApi_of_execAccept_silent (h : execAccept id n s = .fault .consumerSilent) :
    s.apiEn = true ∧ s.nextApi = .silent := by
  rcases andThen_eq_fault.mp h with h | ⟨u, hu, h⟩
  · obtain ⟨hfault, -⟩ := runStrategy_eq_fault h
    cases hfault
  · split at h
    · obtain ⟨-, hen, hsilent⟩ := deliver_eq_fault h
      rcases runStrategy_eq_next hu with rfl | ⟨-, -, rfl⟩ | ⟨b, -, rfl⟩
      all_goals exact ⟨hen, hsilent⟩
    · cases h

/-- A consumer that answers one more event does not answer it with silence. -/
theorem State.consumerAnswers.nextApi_ne_silent {k : Nat} (hs : s.consumerAnswers (k + 1))
    (hen : s.apiEn = true) : s.nextApi ≠ .silent := by
  obtain ⟨hlen, hsilent⟩ := hs hen
  cases hapi : s.api with
  | nil => simp [hapi] at hlen
  | cons a rest =>
    rw [State.nextApi, hapi, List.headD_cons]
    rintro rfl
    exact hsilent (by simp [hapi])

/-- One event later the consumer answers one event fewer, whether it was asked or not. -/
theorem State.consumerAnswers.pred {k : Nat} (hs : s.consumerAnswers (k + 1))
    (hen : t.apiEn = s.apiEn) (hapi : t.api = s.api ∨ t.api = s.api.tail) : t.consumerAnswers k := by
  intro h
  obtain ⟨hlen, hsilent⟩ := hs (hen ▸ h)
  rcases hapi with hapi | hapi <;> rw [hapi]
  · exact ⟨Nat.le_of_succ_le hlen, hsilent⟩
  · exact ⟨by rw [List.length_tail]; omega, fun h => hsilent (List.mem_of_mem_tail h)⟩

/-- ACCEPT of a frame that fits PB completes when the consumer answers (R143, R146). -/
theorem execAccept_completes {k : Nat} (hn : n.toNat ≤ s.cap.toNat)
    (hs : s.consumerAnswers (k + 1)) :
    ∃ t, execAccept id n s = .next t ∧ t.consumerAnswers k := by
  cases h : execAccept id n s with
  | next t =>
    obtain ⟨m, l, r, d, a, f, rfl, -, -, ⟨-, rfl, -⟩ | ⟨-, rfl, -⟩⟩ := execAccept_shape h
    · exact ⟨_, rfl, hs.pred rfl (.inl rfl)⟩
    · exact ⟨_, rfl, hs.pred rfl (.inr rfl)⟩
  | fault r =>
    rcases execAccept_eq_fault h with rfl | ⟨-, -, hlen, hcap⟩
    · obtain ⟨hen, hsilent⟩ := nextApi_of_execAccept_silent h
      exact absurd hsilent (hs.nextApi_ne_silent hen)
    · omega
  | refused r => exact absurd h execAccept_ne_refused

/-- From `s` the feeding went on to `t`: the invariant holds, `k` more events will be answered, and the
dispatcher's list and the chunk buffer are as before. -/
structure FedTo (k : Nat) (s t : State) : Prop where
  inv : t.Inv
  answers : t.consumerAnswers k
  todo : t.todo = s.todo
  chunk : t.chunk = s.chunk

theorem FedTo.trans {j k : Nat} (h : FedTo j s t) (h' : FedTo k t u) : FedTo k s u :=
  ⟨h'.inv, h'.answers, h'.todo.trans h.todo, h'.chunk.trans h.chunk⟩

theorem FedTo.latchStop {k : Nat} (h : FedTo k s t) : FedTo k s t.latchStop where
  inv := h.inv.latchStop
  answers := by
    have hanswers := h.answers
    rwa [State.consumerAnswers, ← t.latchStop_apiEn, ← t.latchStop_api] at hanswers
  todo := t.latchStop_todo.trans h.todo
  chunk := t.latchStop_chunk.trans h.chunk

/-- One byte: only an accept can fail to complete, and its frame fits PB (R43 item 6). -/
theorem execFeed_completes {k : Nat} (hi : s.Inv) (hs : s.consumerAnswers (k + 1)) :
    ∃ t, execFeed x s = .next t ∧ FedTo k s t := by
  obtain ⟨t, ht, hanswers⟩ : ∃ t, execFeed x s = .next t ∧ t.consumerAnswers k := by
    have e := execFeed_effect s x
    generalize execFeed x s = o at e ⊢
    cases e
    case accept hst _ =>
      exact execAccept_completes (s := s.clearDec) (hi.payloadComplete (.inr hst)).2 hs
    case lenient hst _ _ =>
      exact execAccept_completes (s := (s.record .ckBIgnored).clearDec)
        (hi.payloadComplete (.inr hst)).2 hs
    all_goals exact ⟨_, rfl, hs.pred rfl (.inl rfl)⟩
  have htodo : t.todo = s.todo := by
    obtain ⟨st, a, b, id, n, c, i, m, l, pb, api, r, tr, f, rfl⟩ := execFeed_eq_next ht
    rfl
  exact ⟨t, ht, hi.feed ht, hanswers, htodo, execFeed_keeps_chunk ht⟩

theorem execFeedBulk_completes (xs : List Byte) (hi : s.Inv) (hs : s.consumerAnswers xs.length) :
    ∃ t, execFeedBulk xs s = .next t ∧ FedTo 0 s t := by
  induction xs generalizing s with
  | nil => exact ⟨s, rfl, hi, hs, rfl, rfl⟩
  | cons x xs ih =>
    obtain ⟨u, hu, hfed⟩ := execFeed_completes (x := x) hi hs
    obtain ⟨t, ht, hrest⟩ := ih hfed.inv hfed.answers
    exact ⟨t, by rw [execFeedBulk, hu, andThen_next, ht], hfed.trans hrest⟩

theorem execFeedChunk_completes (xs : List Byte) (hi : s.Inv) (hs : s.consumerAnswers xs.length) :
    ∃ t, execFeedChunk xs s = .next t ∧ FedTo 0 s t := by
  induction xs generalizing s with
  | nil => exact ⟨s, rfl, hi, hs, rfl, rfl⟩
  | cons x xs ih =>
    obtain ⟨u, hu, hfed⟩ := execFeed_completes (x := x) hi hs
    obtain ⟨t, ht, hrest⟩ := ih hfed.latchStop.inv hfed.latchStop.answers
    exact ⟨t, by rw [execFeedChunk, hu, mapNext_next, andThen_next, ht], hfed.latchStop.trans hrest⟩

/-- Settles O25, by induction on the bytes. -/
theorem feedingCompletes : Obligations.FeedingCompletes := by
  intro s xs hi hs
  refine ⟨?bulk, ?chunk, fun x hx => ?byte⟩
  case bulk =>
    obtain ⟨t, ht, hfed⟩ := execFeedBulk_completes xs hi hs
    exact ⟨t, ht, hfed.inv, hfed.todo, hfed.chunk⟩
  case chunk =>
    obtain ⟨t, ht, hfed⟩ := execFeedChunk_completes xs hi hs
    exact ⟨t, ht, hfed.inv, hfed.todo, hfed.chunk⟩
  case byte =>
    have hlen : xs.length = xs.length - 1 + 1 := by
      have := List.length_pos_of_mem hx
      omega
    obtain ⟨t, ht, hfed⟩ := execFeed_completes (x := x) hi (hlen ▸ hs)
    exact ⟨t, ht, hfed.inv⟩

end Sys2Proof.Machine
end

section
/-!
PROOFS, strategies: what each strategy answers (42_strategies.md R141 to R143), how ACCEPT chains it with the
API consumer (R140, R145), what the consumer's answer makes of a frame (R146), and when ACCEPT completes.
-/

namespace Sys2Proof.Machine

variable {s t : State} {x : Byte} {id n : Half}

/-! ### The strategies -/

/-- A frame with the awaited id is claimed (R142). -/
theorem execStratMatchReply_of_eq (h : id = s.awaitId) : execStratMatchReply id n s =
    .next (State.setResult { s with matchResult := .replied, rxLen := n } .stop) := if_pos h

theorem execStratMatchReply_of_ne (h : id ≠ s.awaitId) :
    execStratMatchReply id n s = .next (s.setResult .cont) := if_neg h

/-- Settles O26: the two branches of MATCH_REPLY's test on the id. -/
theorem noneAndReplyStrategies : Obligations.NoneAndReplyStrategies := fun _ _ _ =>
  ⟨rfl, execStratMatchReply_of_eq, execStratMatchReply_of_ne⟩

theorem execStratMatchAcknak_of_ack :
    execStratMatchAcknak s.cfg.ackAckId n s = execMsgidAckAck n s := if_pos rfl

theorem execStratMatchAcknak_of_nak (h : s.cfg.ackAckId ≠ s.cfg.ackNakId) :
    execStratMatchAcknak s.cfg.ackNakId n s = execMsgidAckNak n s :=
  (if_neg h.symm).trans (if_pos rfl)

theorem execStratMatchAcknak_of_other (ha : id ≠ s.cfg.ackAckId) (hn : id ≠ s.cfg.ackNakId) :
    execStratMatchAcknak id n s = .next (s.setResult .cont) :=
  (if_neg ha).trans (if_neg hn)

/-- A frame too short for the ACK/NAK layout is left alone (R143). -/
theorem matchAcknowledged_of_short (b : Bool) (h : n.toNat < s.cfg.ackLen) :
    matchAcknowledged b n s = .next (s.setResult .cont) := if_neg (Nat.not_le.mpr h)

/-- A frame that holds the layout, inside PB, is decided by the id its two bytes spell (R143). -/
theorem matchAcknowledged_of_inPB (b : Bool) (hlen : s.cfg.ackLen ≤ n.toNat)
    (hcap : s.cfg.ackLen ≤ s.cap.toNat) :
    matchAcknowledged b n s =
      if joinBytes (s.pbByte s.cfg.ackClassAt) (s.pbByte s.cfg.ackIdAt) = s.awaitId then
        .next (State.setResult { s with matchResult := ackMatch b } .stop)
      else .next (s.setResult .cont) := by
  rw [matchAcknowledged, if_pos hlen, memReadUpTo_of_le hcap]
  simp only [pbBytes_getD (ackClassAt_lt _), pbBytes_getD (ackIdAt_lt _)]

/-- A frame that holds the layout but lies outside PB is read past the capacity (20_memory.md R50). -/
theorem matchAcknowledged_of_outsidePB (b : Bool) (hlen : s.cfg.ackLen ≤ n.toNat)
    (hcap : s.cap.toNat < s.cfg.ackLen) : matchAcknowledged b n s = .fault .pbOutOfRange := by
  rw [matchAcknowledged, if_pos hlen, memReadUpTo_of_lt hcap]

theorem joinBytes_eq_iff {hi lo : Byte} {v : Half} :
    joinBytes hi lo = v ↔ v.toNat = 256 * hi.toNat + lo.toNat := by
  rw [← BitVec.toNat_inj, joinBytes_toNat, eq_comm]

/-- Settles O27: each clause for both message ids at once, by the part they share. -/
theorem ackNakStrategy : Obligations.AckNakStrategy := by
  refine ⟨⟨rfl, rfl, rfl⟩, fun s id n hne => ⟨execStratMatchAcknak_of_other,
    execStratMatchAcknak_of_ack, execStratMatchAcknak_of_nak hne, fun hshort => ?short,
    fun hlen hcap => ⟨fun hid => ?named, fun hid => ?other⟩, fun hlen hcap => ?outside⟩⟩
  case short =>
    exact ⟨matchAcknowledged_of_short true hshort, matchAcknowledged_of_short false hshort⟩
  case named =>
    have hclaimed b :=
      (matchAcknowledged_of_inPB b hlen hcap).trans (if_pos (joinBytes_eq_iff.mpr hid))
    exact ⟨hclaimed true, hclaimed false⟩
  case other =>
    have hleft b :=
      (matchAcknowledged_of_inPB b hlen hcap).trans (if_neg (mt joinBytes_eq_iff.mp hid))
    exact ⟨hleft true, hleft false⟩
  case outside =>
    exact ⟨matchAcknowledged_of_outsidePB true hlen hcap,
      matchAcknowledged_of_outsidePB false hlen hcap⟩

/-! ### The chain of ACCEPT -/

/-- The row of the strategy that `int_cb` selects is the strategy that ACCEPT runs (R140). -/
theorem exec_strategyRow (s : State) : exec (strategyRow s.intCb id n) s = runStrategy id n s := by
  unfold runStrategy
  cases s.intCb <;> rfl

/-- A strategy's answer is never PARSING (R81). -/
theorem runStrategy_answer (h : runStrategy id n s = .next t) :
    t.feedRes = .cont ∨ t.feedRes = .stop := by
  rcases runStrategy_eq_next h with rfl | ⟨-, -, rfl⟩ | ⟨b, -, rfl⟩
  · exact .inl rfl
  · exact .inr rfl
  · exact .inr rfl

/-- ACCEPT after its strategy: on to the consumer, or done (R140). -/
theorem execAccept_of_strategy (h : runStrategy id n (s.record (.accepted id n)) = .next t) :
    execAccept id n s =
      if t.feedRes = .cont ∧ t.apiEn = true then execApiDeliver id n t else .next t := by
  rw [execAccept, h, andThen_next]

/-- A frame that the strategy leaves alone, with no consumer attached, is CONTINUE (R145). -/
theorem execAccept_of_unclaimed (hen : s.apiEn = false)
    (h : runStrategy id n (s.record (.accepted id n)) =
      .next ((s.record (.accepted id n)).setResult .cont)) :
    execAccept id n s = .next { s with trace := .accepted id n :: s.trace, feedRes := .cont } := by
  rw [execAccept_of_strategy h, if_neg (by simp [hen])]
  rfl

theorem runStrategy_of_none (h : s.intCb = .none) :
    runStrategy id n s = .next (s.setResult .cont) := by
  rw [runStrategy, h, execStratNone]

theorem runStrategy_of_matchReply (h : s.intCb = .matchReply) :
    runStrategy id n s = execStratMatchReply id n s := by
  rw [runStrategy, h]

/-- Settles O28: the strategy's answer and `api_en` choose the branch. -/
theorem acceptChain : Obligations.AcceptChain := by
  intro s t id n hrow
  have h : runStrategy id n (s.record (.accepted id n)) = .next t :=
    (exec_strategyRow _).symm.trans hrow
  have haccept := execAccept_of_strategy h
  refine ⟨fun hcont hen => haccept.trans (if_pos ⟨hcont, hen⟩),
    fun _ hen => haccept.trans (if_neg (by simp [hen])),
    fun hstop => haccept.trans (if_neg (by simp [hstop])), runStrategy_answer h, fun hen =>
    ⟨fun hcb => execAccept_of_unclaimed hen (runStrategy_of_none hcb), fun hcb hid => ?otherId⟩⟩
  case otherId =>
    have hstrategy : runStrategy id n (s.record (.accepted id n)) = execStratMatchReply id n _ :=
      runStrategy_of_matchReply hcb
    exact execAccept_of_unclaimed hen (hstrategy.trans (execStratMatchReply_of_ne hid))

/-! ### The consumer's answer -/

section

variable {a : ApiAnswer} {rest : List ApiAnswer}

theorem nextApi_of_api (h : s.api = a :: rest) : s.nextApi = a := by
  rw [State.nextApi, h, List.headD_cons]

/-- The answer's bit on the port is the result, and the answer is used up (R81, R146). -/
theorem deliver_of_code {b : BitVec 1} (hapi : s.api = a :: rest) (hen : s.apiEn = true)
    (hcode : a.code = some b) :
    deliver id n s = .next { s with
      api := rest, fresh := s.fresh + 1, trace := .delivered id n :: s.trace
      feedRes := apiResult b } := by
  simp [deliver, nextApi_of_api hapi, hen, hcode, State.delivered, State.setResult, hapi]

theorem deliver_of_silent (hapi : s.api = .silent :: rest) (hen : s.apiEn = true) :
    deliver id n s = .fault .consumerSilent := by
  simp [deliver, nextApi_of_api hapi, hen]

theorem deliver_of_no_consumer (hen : s.apiEn = false) : deliver id n s = .refused .noConsumer := by
  simp [deliver, hen]

end

/-- Settles O29: STOP and CONTINUE by the code of the answer; silence and no consumer apart. -/
theorem apiDelivery : Obligations.ApiDelivery := by
  intro s id n a rest hapi
  refine ⟨?stop, ?cont, ?silent, fun b hen hcode => ⟨_, deliver_of_code hapi hen hcode, ?zero, ?one⟩,
    deliver_of_no_consumer⟩
  case stop =>
    rintro hen rfl
    exact deliver_of_code hapi hen rfl
  case cont =>
    rintro hen rfl
    exact deliver_of_code hapi hen rfl
  case silent =>
    rintro hen rfl
    exact deliver_of_silent hapi hen
  case zero =>
    rintro rfl
    rfl
  case one =>
    rintro rfl
    rfl

/-! ### ACCEPT completes -/

/-- A strategy whose reads lie in PB answers (R143). -/
theorem runStrategy_answers (hpb : s.strategyInPB id n) : ∃ t, runStrategy id n s = .next t := by
  cases h : runStrategy id n s with
  | next t => exact ⟨t, rfl⟩
  | fault r =>
    obtain ⟨-, hcb, hid, hlen, hcap⟩ := runStrategy_eq_fault h
    exact absurd (hpb hcb hid hlen) (Nat.not_le.mpr hcap)
  | refused r => exact absurd h runStrategy_ne_refused

/-- ACCEPT answers when its strategy's reads lie in PB and the consumer, if attached, answers (R140). -/
theorem execAccept_answers (hpb : s.strategyInPB id n) (hs : s.consumerAnswers 1) :
    ∃ t, execAccept id n s = .next t := by
  cases h : execAccept id n s with
  | next t => exact ⟨t, rfl⟩
  | fault r =>
    rcases execAccept_eq_fault h with rfl | ⟨rfl, -, -, -⟩
    · obtain ⟨hen, hsilent⟩ := nextApi_of_execAccept_silent h
      exact absurd hsilent (hs.nextApi_ne_silent hen)
    · obtain ⟨u, hu⟩ := runStrategy_answers (s := s.record (.accepted id n)) hpb
      rw [execAccept_of_strategy hu] at h
      split at h
      · cases (deliver_eq_fault h).1
      · cases h
  | refused r => exact absurd h execAccept_ne_refused

/-- The frame of ACCEPT: no register but `match_result` and `rx_len`, no PB, no stream, no control. -/
theorem execAccept_frame (h : execAccept id n s = .next t) :
    sameRegsExcept [.matchResult, .rxLen] s t ∧ samePB s t ∧ sameTransport s t ∧ sameControl s t := by
  obtain ⟨m, l, r, d, a, f, rfl, -⟩ := execAccept_shape h
  refine ⟨fun reg hreg => ?regs, fun _ => rfl, ⟨rfl, rfl, rfl, rfl⟩,
    rfl, rfl, rfl, rfl, rfl, rfl, rfl⟩
  case regs =>
    cases reg
    case matchResult | rxLen => exact absurd hreg (by decide)
    all_goals rfl

/-- The last byte of a frame is answered when its accept is (R125, R126). -/
theorem execFeed_chksum2_answers (hs : s.state = .chksum2) (hpb : s.strategyInPB s.msgId s.len)
    (hanswers : s.consumerAnswers 1) : ∃ t, execFeed x s = .next t := by
  by_cases hx : x = s.ckB
  · rw [feed_accept hs hx]
    exact execAccept_answers (s := s.clearDec) hpb hanswers
  · cases hstrict : s.cfg.ck2Strict with
    | true => exact ⟨_, feed_strict hs hx hstrict⟩
    | false =>
      rw [feed_lenient hs hx hstrict]
      exact execAccept_answers (s := (s.record .ckBIgnored).clearDec) hpb hanswers

/-- In CHKSUM2 a FEED leaves PB, and every register but the decoder's and those an accept may write. -/
theorem execFeed_chksum2_frame (hs : s.state = .chksum2) (h : execFeed x s = .next t) :
    samePB s t ∧
      sameRegsExcept [.state, .ckA, .ckB, .msgId, .len, .cnt, .idleRun, .matchResult, .rxLen] s t := by
  obtain ⟨hregs, -, -, hpb, -⟩ := feedFrame s t x h
  exact ⟨hpb (.inl (by rw [hs]; exact nofun)), hregs⟩

/-- Settles O30: ACCEPT by what it can answer, and the two CHKSUM2 rows as the FEED that selects them. -/
theorem acceptCompletes : Obligations.AcceptCompletes := by
  intro s hanswers
  refine ⟨fun id n hpb => ?accept, fun x hs hpb => ?rows⟩
  case accept =>
    obtain ⟨t, ht⟩ := execAccept_answers hpb hanswers
    obtain ⟨-, hres, -⟩ := execAccept_effect ht
    exact ⟨t, ht, hres, execAccept_frame ht⟩
  case rows =>
    obtain ⟨t, ht⟩ := execFeed_chksum2_answers (x := x) hs hpb hanswers
    have hframe := execFeed_chksum2_frame hs ht
    constructor
    · intro hx
      obtain ⟨hstate, hres, -⟩ := accept_entry ht (feed_accept hs hx)
      exact ⟨t, (row_of_feed hs (if_pos hx) ht).2, hres, hstate, hframe⟩
    · intro hx
      refine ⟨t, (row_of_feed hs (if_neg hx) ht).2, ?_⟩
      cases hstrict : s.cfg.ck2Strict with
      | true =>
        obtain ⟨hstate, hres, -⟩ := parsing_entry ht (feed_strict hs hx hstrict) rfl rfl rfl
        exact ⟨iff_of_true hres rfl, hstate, hframe⟩
      | false =>
        obtain ⟨hstate, hres, -⟩ := accept_entry ht (feed_lenient hs hx hstrict)
        exact ⟨iff_of_false hres nofun, hstate, hframe⟩

end Sys2Proof.Machine
end

section
/-!
PROOFS, dispatcher: the micro-operations (43_dispatcher.md R160 to R169). ENCODE's frame byte by byte, the two
transactions by the transport's answer, FEED_CHUNK by its recursion, and SESSION_LOOP's test with what makes it.
-/

namespace Sys2Proof.Machine

variable {s t : State} {x : Byte} {id n : Half} {e : Half} {sent : Nat}

/-! ### ENCODE -/

/-- A frame's header from the bytes of its id and length, length low byte first (R70). -/
theorem frameHeader_append (c i lo hi : Byte) :
    frameHeader (c ++ i) (hi ++ lo) = [c, i, lo, hi] := by
  change frameHeader (joinBytes c i) (joinBytes hi lo) = _
  simp only [frameHeader, highByte_joinBytes, lowByte_joinBytes]

theorem execEncodeFrame_of_lt (h : s.cap.toNat < n.toNat) :
    execEncodeFrame id n s = .fault .pbOutOfRange := by
  rw [execEncodeFrame, memReadUpTo_of_lt h]

/-- Settles O31: ENCODE inside PB, its header written out; past the capacity the read of PB faults. -/
theorem encodeResult : Obligations.EncodeResult := by
  intro s c i lo hi
  refine ⟨fun hfits => ?_, execEncodeFrame_of_lt⟩
  refine (execEncodeFrame_of_le hfits).trans ?_
  simp only [frameBytes, frameChecksum, frameHeader_append]
  rfl

/-! ### The transactions -/

section

variable {a : TpAnswer} {rest : List TpAnswer}

theorem nextTp_of_tp (h : s.tp = a :: rest) : s.nextTp = a := by
  rw [State.nextTp, h, List.headD_cons]

/-- TXRX of a payload that fits is one transceive of its frame, from the state ENCODE leaves (R162). -/
theorem execTxrx_of_le (hn : n.toNat ≤ s.cap.toNat) : execTxrx id n s =
    transceive (frameBytes s.cfg id n (s.pbBytes n.toNat))
      (State.encoded { s with dphase := .txrx } id n) := by
  rw [execTxrx, execEncodeFrame_eq_encoded (s := { s with dphase := .txrx }) hn, andThen_next]
  rfl

theorem transceive_ok {frame : List Byte} (h : s.tp = .ok :: rest) :
    transceive frame s = .next { s with
      tp := rest, fresh := s.fresh + 1, tx := s.tx ++ frame, rx := s.rx.drop frame.length
      chunk := s.chunk ++ s.rxNext frame.length
      trace := .transceive frame.length true :: s.trace, ret := .done } := by
  simp only [transceive, nextTp_of_tp h, State.tpTaken, h, List.tail_cons]

theorem transceive_err {frame : List Byte} (h : s.tp = .err e sent :: rest) :
    transceive frame s = .next { s with
      tp := rest, fresh := s.fresh + 1, tx := s.tx ++ frame.take sent
      trace := .transceive frame.length false :: s.trace, ret := .failed e } := by
  simp only [transceive, nextTp_of_tp h, State.tpTaken, h, List.tail_cons]

theorem transceive_silent {frame : List Byte} (h : s.tp = .silent :: rest) :
    transceive frame s = .fault .transportSilent := by
  simp only [transceive, nextTp_of_tp h]

theorem readBytes_ok {m : Nat} (h : s.tp = .ok :: rest) :
    readBytes m s = .next { s with
      tp := rest, fresh := s.fresh + 1, rx := s.rx.drop m, chunk := s.chunk ++ s.rxNext m
      trace := .read m true :: s.trace, ret := .done } := by
  simp only [readBytes, nextTp_of_tp h, State.tpTaken, h, List.tail_cons]

theorem readBytes_err {m : Nat} (h : s.tp = .err e sent :: rest) :
    readBytes m s = .next { s with
      tp := rest, fresh := s.fresh + 1, trace := .read m false :: s.trace, ret := .failed e } := by
  simp only [readBytes, nextTp_of_tp h, State.tpTaken, h, List.tail_cons]

theorem readBytes_silent {m : Nat} (h : s.tp = .silent :: rest) :
    readBytes m s = .fault .transportSilent := by
  simp only [readBytes, nextTp_of_tp h]

end

/-- Settles O32: one transceive of the encoded frame, by the transport's answer. -/
theorem txrxResult : Obligations.TxrxResult := by
  intro s id n a rest hn htp frame ck
  have hlen : frame.length = n.toNat + 8 := frameBytes_length s.cfg (s.pbBytes_length _)
  have htxrx : exec (.txrx id n) s =
      transceive frame (State.encoded { s with dphase := .txrx } id n) := execTxrx_of_le hn
  refine ⟨hlen, (rxNext_length s _).trans hlen, ?ok, ?err, ?silent⟩
  case ok =>
    rintro rfl
    exact htxrx.trans (transceive_ok htp)
  case err =>
    rintro e sent rfl
    exact htxrx.trans (transceive_err htp)
  case silent =>
    rintro rfl
    exact htxrx.trans (transceive_silent htp)

/-- Settles O33: one read of CHUNK_LEN bytes in D_SCAN, by the transport's answer. -/
theorem readChunkResult : Obligations.ReadChunkResult := by
  intro s a rest htp
  refine ⟨rxNext_length s _, ?ok, ?err, ?silent⟩
  case ok =>
    rintro rfl
    exact readBytes_ok (s := { s with dphase := .scan }) htp
  case err =>
    rintro e sent rfl
    exact readBytes_err (s := { s with dphase := .scan }) htp
  case silent =>
    rintro rfl
    exact readBytes_silent (s := { s with dphase := .scan }) htp

/-! ### FEED_CHUNK -/

theorem execFeedChunk_cons (h : execFeed x s = .next t) (c : List Byte) :
    execFeedChunk (x :: c) s = execFeedChunk c t.latchStop := by
  rw [execFeedChunk, h, mapNext_next, andThen_next]

theorem latchStop_of_stop (h : s.feedRes = .stop) : s.latchStop = { s with stopSeen := true } :=
  if_pos h

theorem latchStop_of_not_stop (h : s.feedRes ≠ .stop) : s.latchStop = s := if_neg h

/-- Only FEED_CHUNK's latch and the dispatcher write `stop_seen` (R163). -/
theorem execFeed_keeps_stopSeen (h : execFeed x s = .next t) : t.stopSeen = s.stopSeen := by
  obtain ⟨st, a, b, id, n, c, i, m, l, pb, api, r, tr, k, rfl⟩ := execFeed_eq_next h
  rfl

/-- A latched STOP stays while a chunk is fed. -/
theorem execFeedChunk_keeps_stop {c : List Byte} (h : execFeedChunk c s = .next t)
    (hs : s.stopSeen = true) : t.stopSeen = true := by
  induction c generalizing s with
  | nil =>
    cases h
    exact hs
  | cons x c ih =>
    obtain ⟨u, hu, h⟩ := andThen_eq_next.mp h
    obtain ⟨v, hv, rfl⟩ := mapNext_eq_next.mp hu
    exact ih h (by simp [execFeed_keeps_stopSeen hv, hs])

/-- Settles O34: a byte's result decides the latch, and feeding goes on either way. -/
theorem feedChunkFeedsEveryByte : Obligations.FeedChunkFeedsEveryByte := by
  intro s x c
  refine ⟨rfl, fun t ht hstop => ?stop, fun t ht hgo => ?goesOn,
    fun t ht hs => execFeedChunk_keeps_stop ht hs⟩
  case stop => exact latchStop_of_stop hstop ▸ execFeedChunk_cons ht c
  case goesOn =>
    have h := execFeedChunk_cons ht c
    rwa [latchStop_of_not_stop hgo] at h

/-! ### Sessions -/

theorem sessionEnd_of_stop (h : s.stopSeen = true) : s.sessionEnd = some .stopped := if_pos h

theorem sessionEnd_of_bound (h : s.stopSeen = false) (hb : s.cfg.idleBound ≤ s.idleRun.toNat) :
    s.sessionEnd = some .timedOut := by
  simp [State.sessionEnd, h, hb]

theorem sessionEnd_of_lt (h : s.stopSeen = false) (hb : s.idleRun.toNat < s.cfg.idleBound) :
    s.sessionEnd = none := by
  simp [State.sessionEnd, h, hb]

theorem execSessionLoop_of_some {r : SessRes} (h : s.sessionEnd = some r) :
    execSessionLoop s = .next { s with ret := r } := by
  rw [execSessionLoop, h]

theorem execSessionLoop_of_none (h : s.sessionEnd = none) :
    execSessionLoop s = .next (s.push [.run .readChunk, .loopUnlessFailed]) := by
  rw [execSessionLoop, h]

theorem loopUnlessFailed_of_failed (h : s.ret = .failed e) : loopUnlessFailed s = .next s := by
  rw [loopUnlessFailed, h]

theorem loopUnlessFailed_of_done (h : s.ret = .done) :
    loopUnlessFailed s = execSessionLoop s := by
  rw [loopUnlessFailed, h]

theorem scanUnlessFailed_of_failed (h : s.ret = .failed e) : scanUnlessFailed s = .next s := by
  rw [scanUnlessFailed, h]

theorem scanUnlessFailed_of_done (h : s.ret = .done) :
    scanUnlessFailed s = execScan .matchAcknak s := by
  rw [scanUnlessFailed, h]

/-- Settles O36: SESSION_LOOP by the end-of-chunk test, and the step that makes it again. -/
theorem sessionLoopTest : Obligations.SessionLoopTest := by
  intro s
  refine ⟨fun hstop => execSessionLoop_of_some (sessionEnd_of_stop hstop),
    fun hgo hbound => execSessionLoop_of_some (sessionEnd_of_bound hgo hbound),
    fun hgo hlt => ⟨execSessionLoop_of_none (sessionEnd_of_lt hgo hlt), fun e t hc ht => ?_⟩⟩
  exact ⟨fun hfailed => (step_loop hc ht).trans (loopUnlessFailed_of_failed hfailed),
    fun hdone => (step_loop hc ht).trans (loopUnlessFailed_of_done hdone)⟩

/-- Settles O37: each operation is its update, by definition. -/
theorem sessionBeginAndComposites : Obligations.SessionBeginAndComposites :=
  fun _ _ _ _ => ⟨rfl, rfl, rfl⟩

end Sys2Proof.Machine
end

section
/-!
PROOFS, dispatcher: the commands (43_dispatcher.md R170 to R176): when each is accepted and what it writes, when
it is refused, and how it ends.
-/

namespace Sys2Proof.Machine

variable {s : State} {o : Res} {n : Half} {k : CmdKind}

/-- Settles O38: INIT answers next in D_IDLE. -/
theorem initResult : Obligations.InitResult := fun _ _ _ hd => execInit_eq_next.mpr ⟨hd, rfl⟩

/-- Settles O39: each command passes its admission. -/
theorem commandsAccepted : Obligations.CommandsAccepted := by
  intro s id n hi hd
  exact ⟨fun hn => ⟨admitSend_of_ready hi hd hn, sendAndWaitReply_of_ready hi hd hn,
    admitSend_of_ready hi hd hn⟩, admitCommand_of_ready hi hd⟩

/-! ### Refusals -/

theorem admitCommand_of_uninitialised (h : s.inited = false) :
    admitCommand s o = .refused .notInitialised := if_pos h

theorem admitCommand_of_busy (h : s.inited = true) (hd : s.dphase ≠ .idle) :
    admitCommand s o = .refused .busy :=
  (if_neg (by simp [h])).trans (if_pos hd)

theorem admitSend_of_too_long (h : s.inited = true) (hd : s.dphase = .idle)
    (hn : s.cap.toNat < n.toNat) : admitSend n s o = .refused .sendTooLong :=
  (admitCommand_of_ready h hd).trans (if_neg (Nat.not_le.mpr hn))

/-- Settles O40: each cause of R175 at the admission that tests it. -/
theorem commandsRefused : Obligations.CommandsRefused := by
  intro s id n api
  refine ⟨fun hi => ?uninitialised, ⟨rfl, rfl, rfl⟩, fun hi hd hn => ?tooLong,
    fun hd => ⟨if_pos hd, fun hi => ?busy⟩⟩
  case uninitialised =>
    exact ⟨admitCommand_of_uninitialised hi, admitCommand_of_uninitialised hi,
      admitCommand_of_uninitialised hi, admitCommand_of_uninitialised hi⟩
  case tooLong =>
    exact ⟨admitSend_of_too_long hi hd hn, admitSend_of_too_long hi hd hn,
      admitSend_of_too_long hi hd hn⟩
  case busy =>
    exact ⟨admitCommand_of_busy hi hd, admitCommand_of_busy hi hd, admitCommand_of_busy hi hd,
      admitCommand_of_busy hi hd⟩

/-! ### Completions -/

theorem finishCommand_of_failed {e : Half} (h : s.ret = .failed e) :
    finishCommand k s = finishIo e s := by
  rw [finishCommand, h]

/-- A command whose session did not fail ends with the outcome its flags give (R171 to R174). -/
theorem finishCommand_of_not_failed (h : ∀ e, s.ret ≠ .failed e) :
    finishCommand k s = finish (commandOutcome k s.ret s.matchResult) s := by
  unfold finishCommand
  cases hret : s.ret with
  | failed e => exact absurd hret (h e)
  | done | stopped | timedOut => rfl

/-- Settles O41: FINISH_IO or FINISH by the session's result, the outcome by the command. -/
theorem commandOutcomes : Obligations.CommandOutcomes := by
  intro s k rest hc ht
  refine ⟨fun e hfailed => (step_finish hc ht).trans (finishCommand_of_failed hfailed),
    fun hok => ⟨commandOutcome k s.ret s.matchResult,
      (step_finish hc ht).trans (finishCommand_of_not_failed hok), ?_⟩,
    fun u huc hut => ⟨fun e hfailed => (step_scan huc hut).trans (scanUnlessFailed_of_failed hfailed),
      fun hdone => (step_scan huc hut).trans (scanUnlessFailed_of_done hdone)⟩⟩
  cases k <;> simp +contextual [commandOutcome]

end Sys2Proof.Machine
end

section
/-!
PROOFS, dispatcher: what a step does to the phase and to the session's result, from a state that meets the
invariant. `step_control` says it once; the transitions of R179 and what R167 says of a timeout are read off it.
-/

namespace Sys2Proof.Machine

variable {s t u v w : State} {i : Instr} {id n : Half} {rest : List Cont} {r : SessRes}

/-- The operations that put UBXC into D_TXRX from D_IDLE: the commands that send, and the host's idioms that
expand into one (R89, R179). -/
def Sends (i : Instr) : Prop :=
  (∃ id n, i = .sendNoWait id n) ∨ (∃ id n, i = .sendWaitReply id n) ∨
    (∃ id n, i = .sendWaitAck id n) ∨ (∃ id, i = .poll id) ∨ (∃ id b, i = .poll1 id b) ∨
    ∃ id p e, i = .pollModifySend id p e

/-- From `s` to `t` the transport answered a transaction, and the result says how (R162, R164). -/
def Answered (s t : State) : Prop :=
  t.ret = .done ∨ ∃ e sent, s.nextTp = .err e sent ∧ t.ret = .failed e

/-- Everything a step does to the phase and to the session's result. -/
inductive ControlStep (s t : State) : Prop where
  | quiet : t.dphase = s.dphase → t.ret = s.ret → ControlStep s t
  | accept {i : Instr} {u : State} : s.dphase = .idle → fetch s = .op i u →
      (Sends i ∧ t.dphase = .txrx) ∨ (i = .readAll ∧ t.dphase = .scan) → t.ret = s.ret →
      ControlStep s t
  | transceive : s.dphase = .txrx → t.dphase = .txrx → Answered s t → ControlStep s t
  | read {u : State} : s.dphase ≠ .idle → t.dphase = .scan → fetch s = .op .readChunk u →
      Answered s t → ControlStep s t
  | test {u : State} {r : SessRes} {rest : List Cont} :
      fetch s = .op .sessionLoop u ∨ fetch s = .loop u → s.sessionEnd = some r →
      t = { s with todo := rest, ret := r } → ControlStep s t
  | finish {k : CmdKind} {rest : List Cont} : s.dphase ≠ .idle → t.dphase = .idle →
      s.chunk = [] → s.todo = .finish k :: rest → t.ret = s.ret → ControlStep s t

/-! ### Operations -/

/-- A FEED writes neither the phase nor the session's result. -/
theorem execFeed_keeps_session {x : Byte} (h : execFeed x s = .next t) :
    t.dphase = s.dphase ∧ t.ret = s.ret ∧ t.todo = s.todo := by
  obtain ⟨st, a, b, id, n, c, i, m, l, pb, api, r, tr, k, rfl⟩ := execFeed_eq_next h
  exact ⟨rfl, rfl, rfl⟩

theorem answered_of_transceive {frame : List Byte} (h : transceive frame s = .next t) :
    Answered s t := by
  rcases transceive_eq_next h with ⟨-, rfl⟩ | ⟨e, sent, he, rfl⟩
  · exact .inl rfl
  · exact .inr ⟨e, sent, he, rfl⟩

theorem answered_of_readBytes {m : Nat} (h : readBytes m s = .next t) : Answered s t := by
  rcases readBytes_eq_next h with ⟨-, rfl⟩ | ⟨e, sent, he, rfl⟩
  · exact .inl rfl
  · exact .inr ⟨e, sent, he, rfl⟩

/-- An accepted send, which `v` admits and whose context is set up in `w`. -/
theorem ControlStep.send {cs : List Cont} (hi : Sends i) (hd : s.dphase = .idle)
    (hf : fetch s = .op i u) (h : admitSend n v (.next ((w.beginSend id).push cs)) = .next t)
    (hret : w.ret = s.ret) : ControlStep s t := by
  obtain ⟨-, -, -, h⟩ := admitSend_eq_next.mp h
  cases h
  exact .accept hd hf (.inl ⟨hi, rfl⟩) hret

/-- A command of the host. -/
theorem ControlStep.command {hs : List HostAct} (hd : s.dphase = .idle)
    (hf : fetch s = .op i { s with host := hs }) (hfmt : i.format = .cmd)
    (h : exec i { s with host := hs } = .next t) : ControlStep s t := by
  cases i
  case init =>
    obtain ⟨-, rfl⟩ := execInit_eq_next.mp h
    exact .quiet hd.symm rfl
  case sendNoWait id n => exact .send (.inl ⟨id, n, rfl⟩) hd hf h rfl
  case sendWaitReply id n => exact .send (.inr (.inl ⟨id, n, rfl⟩)) hd hf h rfl
  case sendWaitAck id n => exact .send (.inr (.inr (.inl ⟨id, n, rfl⟩))) hd hf h rfl
  case readAll =>
    obtain ⟨-, -, h⟩ := admitCommand_eq_next.mp h
    cases h
    exact .accept hd hf (.inr ⟨rfl, rfl⟩) rfl
  case cmdReserved5 | cmdReserved6 | cmdReserved7 => cases h
  all_goals cases hfmt

/-- POLL1, and POLL_MODIFY_SEND with a poll byte: the host's write, then the send. -/
theorem ControlStep.writeThenSend {hs : List HostAct} {b : Byte} {f : State → State} {cs : List Cont}
    (hi : Sends i) (hd : s.dphase = .idle) (hf : fetch s = .op i u)
    (h : andThen (hostWrite 0 b { s with host := hs }) (fun v =>
      admitSend n (f v) (.next (((f v).beginSend id).push cs))) = .next t)
    (hret : ∀ v, (f v).ret = v.ret) : ControlStep s t := by
  obtain ⟨v, hv, h⟩ := andThen_eq_next.mp h
  obtain ⟨-, -, -, rfl⟩ := hostWrite_eq_next.mp hv
  exact .send hi hd hf h (hret _)

theorem ControlStep.pollModifySend {hs : List HostAct} {p : Option Byte} {e : Edit}
    (hd : s.dphase = .idle) (hf : fetch s = .op (.pollModifySend id p e) { s with host := hs })
    (h : execPollModifySend id p e { s with host := hs } = .next t) : ControlStep s t := by
  have hi : Sends (.pollModifySend id p e) :=
    .inr (.inr (.inr (.inr (.inr ⟨id, p, e, rfl⟩))))
  cases p with
  | none => exact .send hi hd hf h rfl
  | some b => exact .writeThenSend (f := (·.push [.compare id e])) hi hd hf h (fun _ => rfl)

/-- SESSION_LOOP's test, by itself or after a read. -/
theorem ControlStep.sessionLoop (hf : fetch s = .op .sessionLoop u ∨ fetch s = .loop u)
    (h : execSessionLoop { s with todo := rest } = .next t) : ControlStep s t := by
  rcases execSessionLoop_eq_next h with ⟨r, hr, rfl⟩ | ⟨-, rfl⟩
  · exact .test hf hr rfl
  · exact .quiet rfl rfl

/-- An operation on the list: between commands the idiom's send, otherwise one of a command in progress. -/
theorem ControlStep.run (hinv : s.Inv) (hc : s.chunk = []) (ht : s.todo = .run i :: rest)
    (h : exec i { s with todo := rest } = .next t) : ControlStep s t := by
  by_cases hd : s.dphase = .idle
  · obtain ⟨⟨id, n, rfl⟩, -⟩ := hinv.run_idle ht hd
    exact .send (.inr (.inr (.inl ⟨id, n, rfl⟩))) hd (fetch_todo hc ht) h rfl
  · rcases hinv.run_busy ht hd with ⟨st, rfl, -⟩ | ⟨id, n, st, rfl, -⟩ | ⟨id, n, rfl, hp, hn, -⟩ |
      ⟨rfl, -⟩ | ⟨rfl, -⟩ | ⟨st, rfl, -⟩
    · cases h
      exact .quiet rfl rfl
    · cases h
      exact .quiet rfl rfl
    · have hphase : t.dphase = .txrx := by
        obtain ⟨a, b, f, tp, k, tx, rx, c, tr, r, rfl⟩ := execTxrx_eq_next h
        rfl
      have htx := execTxrx_of_le (s := { s with todo := rest }) (id := id) hn
      have ha : Answered (State.encoded { s with todo := rest, dphase := .txrx } id n) t :=
        answered_of_transceive (htx.symm.trans h)
      exact .transceive hp hphase ha
    · exact .sessionLoop (.inl (fetch_todo hc ht)) h
    · have hphase : t.dphase = .scan := by
        obtain ⟨tp, k, rx, c, tr, r, rfl⟩ := execReadChunk_eq_next h
        rfl
      have ha : Answered { s with todo := rest, dphase := .scan } t := answered_of_readBytes h
      exact .read hd hphase (fetch_todo hc ht) ha
    · cases h
      exact .quiet rfl rfl

/-! ### A step -/

theorem step_control (hinv : s.Inv) (h : step s = .next t) : ControlStep s t := by
  cases step_effect h with
  | byte _ hu ht =>
    obtain ⟨hphase, hret, -⟩ := execFeed_keeps_session hu
    exact .quiet (by simpa [ht] using hphase) (by simpa [ht] using hret)
  | run hc ht h => exact .run hinv hc ht h
  | loop hc ht h =>
    rcases loopUnlessFailed_eq_next h with rfl | h
    · exact .quiet rfl rfl
    · exact .sessionLoop (.inr (fetch_todo hc ht)) h
  | scan _ _ h =>
    rcases scanUnlessFailed_eq_next h with rfl | h
    · exact .quiet rfl rfl
    · cases h
      exact .quiet rfl rfl
  | finish hc ht h =>
    obtain ⟨o, e, rfl⟩ := finishCommand_eq_next h
    exact .finish (hinv.finish_busy ht).1 rfl hc ht rfl
  | compare _ _ h =>
    obtain ⟨-, rfl | ⟨-, -, rfl⟩⟩ := compareAndSend_eq_next h
    · exact .quiet rfl rfl
    · exact .quiet rfl rfl
  | command hc ht hh h =>
    exact .command (hinv.idle_of_todo_nil ht) (fetch_host hc ht hh) (decodeCmd_format _) h
  | pbWrite _ _ _ h =>
    obtain ⟨-, -, -, rfl⟩ := hostWrite_eq_next.mp h
    exact .quiet rfl rfl
  | pbRead _ _ _ h =>
    obtain ⟨-, -, -, rfl⟩ := hostRead_eq_next.mp h
    exact .quiet rfl rfl
  | @poll id _ hc ht hh h =>
    exact .send (.inr (.inr (.inr (.inl ⟨id, rfl⟩)))) (hinv.idle_of_todo_nil ht)
      (fetch_host hc ht hh) h rfl
  | @poll1 id b _ hc ht hh h =>
    exact .writeThenSend (f := fun v => v) (.inr (.inr (.inr (.inr (.inl ⟨id, b, rfl⟩)))))
      (hinv.idle_of_todo_nil ht) (fetch_host hc ht hh) h (fun _ => rfl)
  | pollModifySend hc ht hh h =>
    exact .pollModifySend (hinv.idle_of_todo_nil ht) (fetch_host hc ht hh) h
  | nothing ht => exact ht ▸ .quiet rfl rfl

/-- Settles O53: the phase after each kind of control step. -/
theorem phaseTransitions : Obligations.PhaseTransitions := by
  intro s t hinv h hne
  cases step_control hinv h with
  | quiet hphase _ => exact absurd hphase hne
  | accept hd hf hi _ =>
    rcases hi with ⟨hi, htx⟩ | ⟨rfl, hscan⟩
    · exact .inl ⟨hd, htx, _, _, hf, hi⟩
    · exact .inr (.inl ⟨hd, hscan, _, hf⟩)
  | transceive hs ht _ => exact absurd (ht.trans hs.symm) hne
  | read hd ht hf _ =>
    cases hs : s.dphase with
    | idle => exact absurd hs hd
    | txrx => exact .inr (.inr (.inl ⟨rfl, ht, _, hf⟩))
    | scan => exact absurd (ht.trans hs.symm) hne
  | test _ _ ht => exact absurd (congrArg State.dphase ht) hne
  | finish hd ht hc htodo _ => exact .inr (.inr (.inr ⟨hd, ht, _, _, fetch_todo hc htodo⟩))

/-! ### The end of a session -/

/-- What the end-of-chunk test found (R166). -/
theorem sessionEnd_eq_some (h : s.sessionEnd = some r) :
    (r = .stopped ∧ s.stopSeen = true) ∨
      (r = .timedOut ∧ s.stopSeen = false ∧ s.cfg.idleBound ≤ s.idleRun.toNat) := by
  unfold State.sessionEnd at h
  split_ifs at h with hstop hbound <;> cases h
  · exact .inl ⟨rfl, hstop⟩
  · exact .inr ⟨rfl, by simpa using hstop, hbound⟩

/-- A transaction's result is neither of the test's. -/
theorem Answered.ret_eq (h : Answered s t) : t.ret = .done ∨ ∃ e, t.ret = .failed e := by
  obtain hdone | ⟨e, -, -, hfailed⟩ := h
  · exact .inl hdone
  · exact .inr ⟨e, hfailed⟩

/-- A session's result becomes STOPPED or TIMED_OUT only by the end-of-chunk test. -/
theorem ControlStep.tested (h : ControlStep s t) (hr : t.ret = .stopped ∨ t.ret = .timedOut)
    (hne : t.ret ≠ s.ret) :
    ∃ u rest, (fetch s = .op .sessionLoop u ∨ fetch s = .loop u) ∧ s.sessionEnd = some t.ret ∧
      t = { s with todo := rest, ret := t.ret } := by
  cases h with
  | quiet _ hret | accept _ _ _ hret | finish _ _ _ _ hret => exact absurd hret hne
  | transceive _ _ ha | read _ _ _ ha =>
    rcases ha.ret_eq with hdone | ⟨e, hfailed⟩
    · simp [hdone] at hr
    · simp [hfailed] at hr
  | test hf hend ht =>
    subst ht
    exact ⟨_, _, hf, hend, rfl⟩

/-- A count of idle bytes is only kept between frames (R43 items 2 and 3). -/
theorem State.Inv.decClean_of_idleRun (hinv : s.Inv) (h : s.idleRun.toNat ≠ 0) : s.decClean := by
  have hs : s.state = .sync1 := by
    by_contra hne
    exact h (by rw [hinv.idleOnlyHunting hne]; rfl)
  exact ⟨hs, hinv.huntingClean (.inl hs)⟩

theorem idleBound_pos {p : Params} (h : p.valid = true) : 1 ≤ p.idleBound := by
  simp only [Params.valid, Bool.and_eq_true, decide_eq_true_eq] at h
  exact h.1.1.2

/-- Settles O54: the bound is at least one, so idle bytes have been counted, and only a hunting decoder counts
them. -/
theorem timeoutLeavesNoPartialFrame : Obligations.TimeoutLeavesNoPartialFrame := by
  intro s t hinv h hret hne
  obtain ⟨u, rest, -, hend, ht⟩ := (step_control hinv h).tested (.inr hret) (hret ▸ hne.symm)
  rw [hret] at hend
  rcases sessionEnd_eq_some hend with ⟨hr, -⟩ | ⟨-, -, hbound⟩
  · cases hr
  · have hclean : s.decClean := hinv.decClean_of_idleRun (by
      have := idleBound_pos hinv.cfgValid
      omega)
    rw [ht]
    exact hclean

end Sys2Proof.Machine
end

section
/-!
PROOFS, dispatcher: the second invariant, operation by operation, and with it R178: a command in progress is
never cut off.
-/

namespace Sys2Proof.Machine

variable {s t v w : State} {i : Instr} {id n : Half} {c : Cont} {rest : List Cont}

/-! ### Between commands -/

theorem completionsAfterResults_of_idleTodo {cs : List Cont} (h : idleTodo cs = true) :
    completionsAfterResults cs = true := by
  induction cs with
  | nil => rfl
  | cons c cs ih =>
    have hcs : idleTodo cs = true := by
      simp only [idleTodo, List.all_cons, Bool.and_eq_true] at h ⊢
      exact h.2
    exact completionsAfterResults_cons.mpr ⟨ih hcs, .inr (endsNext_of_idleTodo hcs)⟩

/-- A command's completion may stand behind an item that leaves a result, and before the idiom's lines. -/
theorem completionsAfterResults_command {k : CmdKind} (hc : resultItem c = true)
    (hrest : idleTodo rest = true) : completionsAfterResults (c :: .finish k :: rest) = true := by
  simp [completionsAfterResults, hc, endsNext_of_idleTodo hrest,
    completionsAfterResults_of_idleTodo hrest]

/-- Between commands no completion stands on the list. -/
theorem State.Inv.sessionInv_of_idle (hinv : s.Inv) (hd : s.dphase = .idle) : s.SessionInv :=
  .of_not_endsNext (completionsAfterResults_of_idleTodo (hinv.todo_idle hd))
    (endsNext_of_idleTodo (hinv.todo_idle hd))

/-- An accepted send whose lines leave the session's result before its completion. -/
theorem State.SessionInv.send {cs : List Cont}
    (h : admitSend n v (.next ((w.beginSend id).push cs)) = .next t)
    (hshape : completionsAfterResults (cs ++ w.todo) = true)
    (hends : endsNext (cs ++ w.todo) = false) : t.SessionInv := by
  obtain ⟨-, -, -, h⟩ := admitSend_eq_next.mp h
  cases h
  exact .of_not_endsNext hshape hends

theorem State.SessionInv.sendNoWait (h : execSendNoWait id n s = .next t)
    (htodo : idleTodo s.todo = true) : t.SessionInv :=
  .send h (completionsAfterResults_command rfl htodo) rfl

theorem State.SessionInv.sendReply (h : sendAndWaitReply id n s = .next t)
    (htodo : idleTodo s.todo = true) : t.SessionInv :=
  .send h (completionsAfterResults_command rfl htodo) rfl

theorem State.SessionInv.sendWaitAck (h : execSendWaitAck id n s = .next t)
    (htodo : idleTodo s.todo = true) : t.SessionInv :=
  .send h (completionsAfterResults_cons.mpr ⟨completionsAfterResults_cons.mpr
    ⟨completionsAfterResults_command rfl htodo, .inr rfl⟩, .inr rfl⟩) rfl

theorem State.SessionInv.readAll (h : execReadAll s = .next t)
    (htodo : idleTodo s.todo = true) : t.SessionInv := by
  obtain ⟨-, -, h⟩ := admitCommand_eq_next.mp h
  cases h
  exact .of_not_endsNext (completionsAfterResults_command rfl htodo) rfl

/-- A command that leaves UBXC busy was accepted. -/
theorem State.SessionInv.command (h : exec i s = .next t) (hf : i.format = .cmd)
    (htodo : idleTodo s.todo = true) (hbusy : t.dphase ≠ .idle) : t.SessionInv := by
  cases i
  case init =>
    obtain ⟨-, rfl⟩ := execInit_eq_next.mp h
    exact absurd rfl hbusy
  case sendNoWait => exact .sendNoWait h htodo
  case sendWaitReply => exact .sendReply h htodo
  case sendWaitAck => exact .sendWaitAck h htodo
  case readAll => exact .readAll h htodo
  case cmdReserved5 | cmdReserved6 | cmdReserved7 => cases h
  all_goals cases hf

theorem State.SessionInv.poll1 {b : Byte} (h : execPoll1 id b s = .next t)
    (htodo : idleTodo s.todo = true) : t.SessionInv := by
  obtain ⟨u, hu, h⟩ := andThen_eq_next.mp h
  obtain ⟨-, -, -, rfl⟩ := hostWrite_eq_next.mp hu
  exact .sendReply h htodo

theorem State.SessionInv.pollModifySend {p : Option Byte} {e : Edit}
    (h : execPollModifySend id p e s = .next t) (htodo : idleTodo s.todo = true) :
    t.SessionInv := by
  cases p with
  | none => exact .sendReply h htodo
  | some b =>
    obtain ⟨u, hu, h⟩ := andThen_eq_next.mp h
    obtain ⟨-, -, -, rfl⟩ := hostWrite_eq_next.mp hu
    exact .sendReply h htodo

/-! ### Inside a command -/

theorem State.SessionInv.tail_shape (hs : s.SessionInv) (ht : s.todo = c :: rest) :
    completionsAfterResults rest = true :=
  (completionsAfterResults_cons.mp (ht ▸ hs.shape)).1

/-- After an item that leaves no result no completion is next. -/
theorem State.SessionInv.tail_not_ends (hs : s.SessionInv) (ht : s.todo = c :: rest)
    (hc : resultItem c = false) : endsNext rest = false := by
  rcases (completionsAfterResults_cons.mp (ht ▸ hs.shape)).2 with hr | hends
  · simp [hc] at hr
  · exact hends

/-- The end-of-chunk test leaves its result before what comes next, or puts one more read before itself. -/
theorem State.SessionInv.sessionLoop (hrest : completionsAfterResults rest = true)
    (hc : s.chunk = []) (h : execSessionLoop { s with todo := rest } = .next t) : t.SessionInv := by
  rcases execSessionLoop_eq_next h with ⟨r, hend, rfl⟩ | ⟨-, rfl⟩
  · exact ⟨hrest, fun _ => ⟨hc, .inr hend⟩⟩
  · exact .of_not_endsNext
      (by simp [State.push, completionsAfterResults, resultItem, hrest]) rfl

theorem State.SessionInv.scan {st : Strategy} (hrest : completionsAfterResults rest = true)
    (h : execScan st { s with todo := rest } = .next t) : t.SessionInv := by
  cases h
  exact .of_not_endsNext (by simp [State.push, completionsAfterResults, resultItem, hrest]) rfl

/-- After a failed transaction the list goes on as it is, otherwise with SESSION_LOOP (R166, R168). -/
theorem loopUnlessFailed_failed_or_loops (h : loopUnlessFailed s = .next t) :
    ((∃ e, s.ret = .failed e) ∧ t = s) ∨ execSessionLoop s = .next t := by
  unfold loopUnlessFailed at h
  split at h
  · cases h
    exact .inl ⟨⟨_, ‹_›⟩, rfl⟩
  all_goals exact .inr h

/-- After a failed transaction the list goes on as it is, otherwise with SCAN (R173). -/
theorem scanUnlessFailed_failed_or_scans (h : scanUnlessFailed s = .next t) :
    ((∃ e, s.ret = .failed e) ∧ t = s) ∨ execScan .matchAcknak s = .next t := by
  unfold scanUnlessFailed at h
  split at h
  · cases h
    exact .inl ⟨⟨_, ‹_›⟩, rfl⟩
  all_goals exact .inr h

/-- A failed transaction stands before the completion (R168, R173). -/
theorem State.SessionInv.failed {e : Half} (hrest : completionsAfterResults rest = true)
    (hc : s.chunk = []) (hret : s.ret = .failed e) : ({ s with todo := rest } : State).SessionInv :=
  ⟨hrest, fun _ => ⟨hc, .inl ⟨e, hret⟩⟩⟩

theorem State.SessionInv.loopUnlessFailed (hrest : completionsAfterResults rest = true)
    (hc : s.chunk = []) (h : loopUnlessFailed { s with todo := rest } = .next t) :
    t.SessionInv := by
  rcases loopUnlessFailed_failed_or_loops h with ⟨⟨e, hret⟩, rfl⟩ | h
  · exact .failed hrest hc hret
  · exact .sessionLoop hrest hc h

theorem State.SessionInv.scanUnlessFailed (hrest : completionsAfterResults rest = true)
    (hc : s.chunk = []) (h : scanUnlessFailed { s with todo := rest } = .next t) :
    t.SessionInv := by
  rcases scanUnlessFailed_failed_or_scans h with ⟨⟨e, hret⟩, rfl⟩ | h
  · exact .failed hrest hc hret
  · exact .scan hrest h

/-- An operation on the list of a command in progress. -/
theorem State.SessionInv.runBusy (hinv : s.Inv) (hs : s.SessionInv) (hd : s.dphase ≠ .idle)
    (hc : s.chunk = []) (ht : s.todo = .run i :: rest)
    (h : exec i { s with todo := rest } = .next t) : t.SessionInv := by
  have hrest := hs.tail_shape ht
  rcases hinv.run_busy ht hd with ⟨st, rfl, -⟩ | ⟨id, n, st, rfl, -⟩ | ⟨id, n, rfl, -⟩ |
    ⟨rfl, -⟩ | ⟨rfl, -⟩ | ⟨st, rfl, -⟩
  · cases h
    exact .of_not_endsNext hrest (hs.tail_not_ends ht rfl)
  · cases h
    exact .of_not_endsNext (by simp [State.push, completionsAfterResults, resultItem, hrest]) rfl
  · have hends := hs.tail_not_ends ht rfl
    obtain ⟨a, b, f, tp, k, tx, rx, c, tr, r, rfl⟩ := execTxrx_eq_next h
    exact .of_not_endsNext hrest hends
  · exact .sessionLoop hrest hc h
  · have hends := hs.tail_not_ends ht rfl
    obtain ⟨tp, k, rx, c, tr, r, rfl⟩ := execReadChunk_eq_next h
    exact .of_not_endsNext hrest hends
  · exact .scan hrest h

theorem State.SessionInv.run (hinv : s.Inv) (hs : s.SessionInv) (hc : s.chunk = [])
    (ht : s.todo = .run i :: rest) (h : exec i { s with todo := rest } = .next t) :
    t.SessionInv := by
  by_cases hd : s.dphase = .idle
  · obtain ⟨⟨id, n, rfl⟩, hidle⟩ := hinv.run_idle ht hd
    exact .sendWaitAck h hidle
  · exact .runBusy hinv hs hd hc ht h

/-! ### A step -/

/-- Every step keeps the second invariant: a step that ends between commands by the first one, any other by
the work it took up. -/
theorem State.SessionInv.step (hinv : s.Inv) (hs : s.SessionInv) (h : step s = .next t) :
    t.SessionInv := by
  by_cases hd : t.dphase = .idle
  · exact (stepKeepsInvariant s t hinv h).sessionInv_of_idle hd
  have hhost : s.todo = [] → idleTodo s.todo = true := fun ht => by rw [ht]; rfl
  cases step_effect h with
  | byte hc hu ht =>
    have hends := hs.endsNext_of_chunk (by simp [hc])
    obtain ⟨-, -, htodo⟩ := execFeed_keeps_session hu
    subst ht
    exact .of_not_endsNext (by simpa [htodo] using hs.shape) (by simpa [htodo] using hends)
  | run hc ht h => exact .run hinv hs hc ht h
  | loop hc ht h => exact .loopUnlessFailed (hs.tail_shape ht) hc h
  | scan hc ht h => exact .scanUnlessFailed (hs.tail_shape ht) hc h
  | finish _ _ h =>
    obtain ⟨o, e, rfl⟩ := finishCommand_eq_next h
    exact absurd rfl hd
  | compare _ _ h =>
    obtain ⟨hidle, rfl | ⟨-, -, rfl⟩⟩ := compareAndSend_eq_next h <;> exact absurd hidle hd
  | command _ ht _ h =>
    exact .command h (decodeCmd_format _) (hhost ht) hd
  | pbWrite _ _ _ h =>
    obtain ⟨-, hidle, -, rfl⟩ := hostWrite_eq_next.mp h
    exact absurd hidle hd
  | pbRead _ _ _ h =>
    obtain ⟨-, hidle, -, rfl⟩ := hostRead_eq_next.mp h
    exact absurd hidle hd
  | poll _ ht _ h => exact .sendReply h (hhost ht)
  | poll1 _ ht _ h => exact .poll1 h (hhost ht)
  | pollModifySend _ ht _ h => exact .pollModifySend h (hhost ht)
  | nothing ht => exact ht ▸ hs

/-! ### R178 -/

/-- At a command's completion its session has ended, and how is still to be seen. -/
theorem State.SessionInv.ended {k : CmdKind} (hs : s.SessionInv) (ht : s.todo = .finish k :: rest) :
    (s.ret = .stopped ∧ s.stopSeen = true) ∨
      (s.ret = .timedOut ∧ s.stopSeen = false ∧ s.cfg.idleBound ≤ s.idleRun.toNat) ∨
      ∃ e, s.ret = .failed e := by
  obtain ⟨-, hfailed | hend⟩ := hs.result (by rw [ht]; rfl)
  · exact .inr (.inr hfailed)
  · rcases sessionEnd_eq_some hend with hstop | hbound
    · exact .inl hstop
    · exact .inr (.inl hbound)

/-- UBXC comes to D_IDLE only by a command's completion. -/
theorem ControlStep.finished (h : ControlStep s t) (hs : s.dphase ≠ .idle) (ht : t.dphase = .idle) :
    ∃ k rest, s.chunk = [] ∧ s.todo = .finish k :: rest := by
  cases h with
  | quiet hphase _ => exact absurd (hphase.symm.trans ht) hs
  | accept hidle _ _ _ => exact absurd hidle hs
  | transceive _ hphase _ | read _ hphase _ _ => simp [hphase] at ht
  | test _ _ heq =>
    subst heq
    exact absurd ht hs
  | finish _ _ hc htodo _ => exact ⟨_, _, hc, htodo⟩

/-- A scan ends only in D_IDLE. -/
theorem ControlStep.idle_of_scan (h : ControlStep s t) (hs : s.dphase = .scan)
    (ht : t.dphase ≠ .scan) : t.dphase = .idle := by
  cases h with
  | quiet hphase _ => exact absurd (hphase.trans hs) ht
  | accept hphase _ _ _ | transceive hphase _ _ => simp [hphase] at hs
  | read _ hphase _ _ => exact absurd hphase ht
  | test _ _ heq =>
    subst heq
    exact absurd hs ht
  | finish _ hidle _ _ _ => exact hidle

/-- A session's result becomes a failure only by the transport's answer. -/
theorem ControlStep.failed {e : Half} (h : ControlStep s t) (ht : t.ret = .failed e)
    (hs : s.ret ≠ .failed e) : ∃ sent, s.nextTp = .err e sent := by
  cases h with
  | quiet _ hret | accept _ _ _ hret | finish _ _ _ _ hret => exact absurd (hret.symm.trans ht) hs
  | transceive _ _ ha | read _ _ _ ha =>
    obtain hdone | ⟨e', sent, htp, hfailed⟩ := ha
    · simp [hdone] at ht
    · rw [ht] at hfailed
      cases hfailed
      exact ⟨sent, htp⟩
  | test _ hend heq =>
    subst heq
    rcases sessionEnd_eq_some hend with ⟨rfl, -⟩ | ⟨rfl, -⟩ <;> cases ht

/-- Settles O58: the second invariant at the next state, and at this one what a completion stands on. -/
theorem commandEndsOnlyBySessionEnd : Obligations.CommandEndsOnlyBySessionEnd := by
  intro s t hinv hs h
  have hctl := step_control hinv h
  refine ⟨hs.step hinv h, fun hbusy hidle => ?finished, hctl.idle_of_scan, fun hret hne => ?stopped,
    fun hret hne => ?timedOut, fun e => hctl.failed⟩
  case finished =>
    obtain ⟨k, rest, hc, htodo⟩ := hctl.finished hbusy hidle
    exact ⟨⟨k, _, fetch_todo hc htodo⟩, hs.ended htodo⟩
  case stopped =>
    obtain ⟨u, -, hf, hend, -⟩ := hctl.tested (.inl hret) (hret ▸ hne.symm)
    rw [hret] at hend
    rcases sessionEnd_eq_some hend with ⟨-, hstop⟩ | ⟨hr, -⟩
    · exact ⟨hstop, u, hf⟩
    · cases hr
  case timedOut =>
    obtain ⟨u, -, hf, hend, -⟩ := hctl.tested (.inr hret) (hret ▸ hne.symm)
    rw [hret] at hend
    rcases sessionEnd_eq_some hend with ⟨hr, -⟩ | ⟨-, hgo, hbound⟩
    · cases hr
    · exact ⟨hgo, hbound, u, hf⟩

end Sys2Proof.Machine
end

section
/-!
PROOFS, dispatcher: runs of a session. How one step leads to the next between a session's test, its reads and its
completion; what a chunk of idle fill does to a hunting decoder; and with these that a scan may take any number of
steps (43_dispatcher.md R178), and that on a quiet link it does not (R167).
-/

namespace Sys2Proof.Machine

variable {s t u : State} {rest : List Cont} {tp : List TpAnswer} {r : SessRes} {m n : Nat}

/-- Some number of steps leads from `s` to `t`. -/
def Reaches (s t : State) : Prop := ∃ k, s.runsTo k t

theorem Reaches.refl (s : State) : Reaches s s := ⟨0, rfl⟩

theorem Reaches.trans (h : Reaches s u) (h' : Reaches u t) : Reaches s t :=
  have ⟨_, hj⟩ := h
  have ⟨_, hk⟩ := h'
  ⟨_, runSteps_trans hj hk⟩

theorem Reaches.step (h : step s = .next u) (hr : Reaches u t) : Reaches s t :=
  have ⟨_, hk⟩ := hr
  ⟨_, runSteps_of_step h hk⟩

/-- The waiting bytes are fed as FEED_CHUNK feeds them (R41, R163). -/
theorem Reaches.chunk {c : List Byte} (hs : s.chunk = []) (h : execFeedChunk c s = .next t) :
    Reaches { s with chunk := c } t := ⟨c.length, (runSteps_chunk c s hs).trans h⟩

/-- A run that begins with an operation's next state. -/
theorem exists_runFrom {o : Res} {P : State → Prop} (ho : o = .next u) (hr : Reaches u t)
    (hp : P t) : ∃ k t, runFrom o k = .next t ∧ P t := by
  obtain ⟨k, hk⟩ := hr
  exact ⟨k, t, by rw [runFrom, ho, andThen_next]; exact hk, hp⟩

/-- The invariant holds along a run. -/
theorem runSteps_inv {k : Nat} (hinv : s.Inv) (h : runSteps k s = .next t) : t.Inv := by
  induction k generalizing s with
  | zero =>
    cases h
    exact hinv
  | succ k ih =>
    obtain ⟨u, hu, h⟩ := andThen_eq_next.mp h
    exact ih (stepKeepsInvariant s u hinv hu) h

/-! ### The beginning of a session -/

/-- The operation at the head of the list is performed. -/
theorem Reaches.run {i : Instr} (hc : s.chunk = []) (ht : s.todo = .run i :: rest)
    (he : exec i { s with todo := rest } = .next u) (hr : Reaches u t) : Reaches s t :=
  .step ((step_run hc ht).trans he) hr

/-- A session begins (R165). -/
def State.begun (s : State) (st : Strategy) (rest : List Cont) : State :=
  { s with intCb := st, stopSeen := false, idleRun := 0, todo := rest }

theorem Reaches.sessionBegin {st : Strategy} (hc : s.chunk = [])
    (ht : s.todo = .run (.sessionBegin st) :: rest) (hr : Reaches (s.begun st rest) t) :
    Reaches s t := .run hc ht rfl hr

/-- SCAN begins a session and comes to its first test (R169). -/
theorem Reaches.scan {st : Strategy} (hc : s.chunk = []) (ht : s.todo = .run (.scan st) :: rest)
    (hr : Reaches (s.begun st (.run .sessionLoop :: rest)) t) : Reaches s t := by
  refine .run hc ht rfl (.sessionBegin (st := st) (rest := .run .sessionLoop :: rest) hc rfl ?_)
  exact hr

/-! ### The end-of-chunk test, a read and a completion -/

/-- The end-of-chunk test is next on the list, by itself or after a transaction that did not fail. -/
def State.testNext (s : State) (rest : List Cont) : Prop :=
  s.todo = .run .sessionLoop :: rest ∨ (s.todo = .loopUnlessFailed :: rest ∧ s.ret = .done)

theorem step_test (hc : s.chunk = []) (h : s.testNext rest) :
    step s = execSessionLoop { s with todo := rest } := by
  rcases h with ht | ⟨ht, hret⟩
  · exact step_run hc ht
  · exact (step_loop hc ht).trans (loopUnlessFailed_of_done hret)

theorem step_test_of_some (hc : s.chunk = []) (h : s.testNext rest) (he : s.sessionEnd = some r) :
    step s = .next { s with todo := rest, ret := r } :=
  (step_test hc h).trans (execSessionLoop_of_some he)

theorem step_test_of_none (hc : s.chunk = []) (h : s.testNext rest) (he : s.sessionEnd = none) :
    step s = .next { s with todo := .run .readChunk :: .loopUnlessFailed :: rest } :=
  (step_test hc h).trans (execSessionLoop_of_none he)

/-- A read has been answered Ok, and its bytes are taken from the RX stream but not yet fed. -/
def State.hasRead (s : State) (rest : List Cont) (tp : List TpAnswer) : State :=
  { s with
    todo := rest
    dphase := .scan
    tp := tp
    rx := s.rx.drop s.cfg.chunkLen
    trace := .read s.cfg.chunkLen true :: s.trace
    ret := .done
    fresh := s.fresh + 1 }

theorem step_readChunk (hc : s.chunk = []) (ht : s.todo = .run .readChunk :: rest)
    (htp : s.tp = .ok :: tp) :
    step s = .next { s.hasRead rest tp with chunk := s.rxNext s.cfg.chunkLen } := by
  have hread : execReadChunk { s with todo := rest } =
      .next { s.hasRead rest tp with chunk := s.chunk ++ s.rxNext s.cfg.chunkLen } :=
    readBytes_ok (s := { s with todo := rest, dphase := .scan }) htp
  exact (step_run hc ht).trans (hread.trans (by rw [hc, List.nil_append]))

/-- A session that goes on reads one chunk, and feeds it (R166). -/
theorem Reaches.read (hc : s.chunk = []) (h : s.testNext rest) (he : s.sessionEnd = none)
    (htp : s.tp = .ok :: tp)
    (hf : execFeedChunk (s.rxNext s.cfg.chunkLen) (s.hasRead (.loopUnlessFailed :: rest) tp) =
      .next t) : Reaches s t := by
  refine .step (step_test_of_none hc h he) (.step ?read (.chunk (s := s.hasRead _ tp) hc hf))
  case read =>
    exact step_readChunk (s := { s with todo := .run .readChunk :: .loopUnlessFailed :: rest })
      hc rfl htp

/-- A command has completed after a session that ended with `r` (R171 to R174, R176). -/
def State.completed (s : State) (k : CmdKind) (r : SessRes) (rest : List Cont) : State :=
  { s with
    todo := rest
    ret := r
    intCb := .none
    outcome := commandOutcome k r s.matchResult
    dphase := .idle }

/-- A session that the test ends is followed by its command's completion. -/
theorem Reaches.complete {k : CmdKind} (hc : s.chunk = []) (h : s.testNext (.finish k :: rest))
    (he : s.sessionEnd = some r) : Reaches s (s.completed k r rest) := by
  have hr : ∀ e, r ≠ .failed e := by
    rintro e rfl
    rcases sessionEnd_eq_some he with ⟨hr, -⟩ | ⟨hr, -⟩ <;> cases hr
  refine .step (step_test_of_some hc h he) (.step ?finish (.refl _))
  case finish =>
    exact (step_finish (s := { s with todo := .finish k :: rest, ret := r }) hc rfl).trans
      (finishCommand_of_not_failed hr)

/-! ### The bytes a transaction hands over -/

/-- A transaction of listed bytes hands over the first of them (R215). -/
theorem rxNext_of_le (h : m ≤ s.rx.length) : s.rxNext m = s.rx.take m := by
  have hfill : s.rxFill 0 = [] := List.length_eq_zero_iff.mp (rxFill_length s 0)
  rw [State.rxNext, Nat.sub_eq_zero_of_le h, hfill, List.append_nil]

theorem rxNext_of_append {xs ys : List Byte} (h : s.rx = xs ++ ys) (hm : xs.length = m) :
    s.rxNext m = xs := by
  rw [rxNext_of_le (by simp [h, hm]), h, List.take_left' hm]

/-- On a quiet link a transaction hands over idle fill. -/
theorem rxNext_of_quiet (hrx : s.rx = []) (ht : s.rxTail = .quiet) :
    s.rxNext m = List.replicate m s.cfg.idle := by
  simp [State.rxNext, State.rxFill, hrx, ht]

/-! ### Idle fill -/

/-- A hunting decoder that has been fed `n` idle bytes: they are counted, up to saturation (R113). -/
def State.idled (s : State) (n : Nat) : State :=
  { s with
    idleRun := BitVec.ofNat 16 (min (s.idleRun.toNat + n) 65535)
    feedRes := if n = 0 then s.feedRes else .parsing }

theorem idled_idleRun_toNat (s : State) (n : Nat) :
    (s.idled n).idleRun.toNat = min (s.idleRun.toNat + n) 65535 := by
  simp only [State.idled, BitVec.toNat_ofNat]
  omega

theorem idled_zero (s : State) : s.idled 0 = s := by
  have h : min s.idleRun.toNat 65535 = s.idleRun.toNat := by
    have := s.idleRun.isLt
    omega
  simp [State.idled, h]

theorem idled_succ (s : State) (n : Nat) :
    State.idled { s with idleRun := satInc16 s.idleRun, feedRes := .parsing } n =
      s.idled (n + 1) := by
  have h : min ((satInc16 s.idleRun).toNat + n) 65535 = min (s.idleRun.toNat + (n + 1)) 65535 := by
    rw [satInc16_toNat]
    omega
  simp [State.idled, h]

theorem latchStop_of_parsing (h : s.feedRes = .parsing) : s.latchStop = s :=
  latchStop_of_not_stop (by rw [h]; exact nofun)

theorem execFeedChunk_cons_parsing {x : Byte} {c : List Byte} (h : execFeed x s = .next t)
    (hr : t.feedRes = .parsing) : execFeedChunk (x :: c) s = execFeedChunk c t := by
  rw [execFeedChunk_cons h, latchStop_of_parsing hr]

theorem execFeedChunk_idle (n : Nat) (hs : s.state = .sync1) (hne : s.cfg.idle ≠ s.cfg.sync1) :
    execFeedChunk (List.replicate n s.cfg.idle) s = .next (s.idled n) := by
  induction n generalizing s with
  | zero => rw [idled_zero]; rfl
  | succ n ih =>
    rw [List.replicate_succ, execFeedChunk_cons_parsing (feed_idle hs hne rfl) rfl, ← idled_succ]
    exact ih (s := { s with idleRun := satInc16 s.idleRun, feedRes := .parsing }) hs hne

/-! ### R7's constraints -/

theorem idle_ne_sync1 {p : Params} (h : p.valid = true) : p.idle ≠ p.sync1 := by
  simp only [Params.valid, Bool.and_eq_true, bne_iff_ne] at h
  exact h.1.1.1.1.symm

theorem ackAckId_ne_ackNakId {p : Params} (h : p.valid = true) : p.ackAckId ≠ p.ackNakId := by
  simp only [Params.valid, Bool.and_eq_true, bne_iff_ne] at h
  exact h.1.1.1.2

theorem idleBound_le {p : Params} (h : p.valid = true) : p.idleBound ≤ 65535 := by
  simp only [Params.valid, Bool.and_eq_true, decide_eq_true_eq] at h
  exact h.1.2

theorem chunkLen_pos {p : Params} (h : p.valid = true) : 1 ≤ p.chunkLen := by
  simp only [Params.valid, Bool.and_eq_true, decide_eq_true_eq] at h
  exact h.2

/-! ### A session without end: a scan of noise -/

/-- Neither a first sync byte nor idle fill: a hunting decoder stays as it is, its idle count at 0 (R114). -/
def IsNoise (p : Params) (x : Byte) : Prop := x ≠ p.sync1 ∧ x ≠ p.idle

theorem exists_noise (p : Params) : ∃ x, IsNoise p x := by
  by_cases h : p.sync1 + 1 = p.idle
  · exact ⟨p.sync1 + 2, by bv_omega, by bv_omega⟩
  · exact ⟨p.sync1 + 1, by bv_omega, h⟩

/-- READ_ALL in its scan of a noisy stream that lasts for `j` more reads at least, each answered Ok. -/
structure NoisyScan (j : Nat) (s : State) : Prop where
  valid : s.cfg.valid = true
  phase : s.dphase = .scan
  hunting : s.state = .sync1
  noStop : s.stopSeen = false
  noIdle : s.idleRun = 0
  chunkNoise : ∀ x ∈ s.chunk, IsNoise s.cfg x
  rxNoise : ∀ x ∈ s.rx, IsNoise s.cfg x
  supply : j * s.cfg.chunkLen ≤ s.rx.length
  answers : ∃ i, j ≤ i ∧ s.tp = List.replicate i .ok
  work : s.testNext [.finish .readAll] ∨
    s.todo = [.run .readChunk, .loopUnlessFailed, .finish .readAll]

theorem NoisyScan.pred {j : Nat} (h : NoisyScan (j + 1) s) : NoisyScan j s :=
  have ⟨i, hi, htp⟩ := h.answers
  { h with
    supply := le_trans (Nat.mul_le_mul_right _ (Nat.le_succ j)) h.supply
    answers := ⟨i, by omega, htp⟩ }

theorem NoisyScan.sessionEnd {j : Nat} (h : NoisyScan j s) : s.sessionEnd = none :=
  sessionEnd_of_lt h.noStop (by rw [h.noIdle]; exact idleBound_pos h.valid)

/-- A waiting byte of noise changes nothing. -/
theorem NoisyScan.byte {j : Nat} {x : Byte} {bytes : List Byte} (h : NoisyScan j s)
    (hc : s.chunk = x :: bytes) : ∃ t, step s = .next t ∧ NoisyScan j t := by
  obtain ⟨hsync, hidle⟩ := h.chunkNoise x (by simp [hc])
  refine ⟨{ s with chunk := bytes, idleRun := 0, feedRes := .parsing }, ?_, ?_⟩
  · rw [step_byte hc, feed_noise (s := { s with chunk := bytes }) h.hunting hsync hidle,
      mapNext_next, latchStop_of_parsing rfl]
  · exact { h with
      noIdle := rfl
      chunkNoise := fun y hy => h.chunkNoise y (by simp [hc, hy]) }

/-- A read takes one chunk of the noise and one answer. -/
theorem NoisyScan.read {j : Nat} (h : NoisyScan (j + 1) s) (hc : s.chunk = [])
    (ht : s.todo = [.run .readChunk, .loopUnlessFailed, .finish .readAll]) :
    ∃ t, step s = .next t ∧ NoisyScan j t := by
  obtain ⟨i, hi, htp⟩ := h.answers
  obtain ⟨i, rfl⟩ : ∃ i', i = i' + 1 := ⟨i - 1, by omega⟩
  have hsupply : j * s.cfg.chunkLen + s.cfg.chunkLen ≤ s.rx.length := by
    rw [← Nat.succ_mul]
    exact h.supply
  refine ⟨_, step_readChunk hc ht htp, ?_⟩
  exact { h with
    phase := rfl
    chunkNoise := fun x hx => h.rxNoise x (by
      rw [rxNext_of_le (by omega)] at hx
      exact List.mem_of_mem_take hx)
    rxNoise := fun x hx => h.rxNoise x (List.mem_of_mem_drop hx)
    supply := by
      change j * s.cfg.chunkLen ≤ (s.rx.drop s.cfg.chunkLen).length
      rw [List.length_drop]
      omega
    answers := ⟨i, Nat.le_of_succ_le_succ hi, rfl⟩
    work := .inl (.inr ⟨rfl, rfl⟩) }

theorem NoisyScan.step {j : Nat} (h : NoisyScan (j + 1) s) :
    ∃ t, step s = .next t ∧ NoisyScan j t := by
  cases hc : s.chunk with
  | cons x bytes => exact h.pred.byte hc
  | nil =>
    rcases h.work with htest | ht
    · exact ⟨_, step_test_of_none hc htest h.sessionEnd, { h.pred with work := .inr rfl }⟩
    · exact h.read hc ht

theorem NoisyScan.run (k : Nat) (h : NoisyScan k s) :
    ∃ t, runSteps k s = .next t ∧ NoisyScan 0 t := by
  induction k generalizing s with
  | zero => exact ⟨s, rfl, h⟩
  | succ k ih =>
    obtain ⟨u, hu, h⟩ := h.step
    obtain ⟨t, ht, h⟩ := ih h
    exact ⟨t, runSteps_of_step hu ht, h⟩

/-- READ_ALL about to make its first test, before `k` chunks of the byte `x`. -/
def scanStart (p : Params) (k : Nat) (x : Byte) : State :=
  { State.reset with
    cfg := p
    dphase := .scan
    inited := true
    rx := List.replicate (k * p.chunkLen) x
    tp := List.replicate k .ok
    todo := [.run .sessionLoop, .finish .readAll] }

theorem scanStart_inv {p : Params} (hp : p.valid = true) (k : Nat) (x : Byte) :
    (scanStart p k x).Inv :=
  { reset_inv with
    cfgValid := hp
    busyInited := fun _ => rfl
    control := rfl
    chunkBusy := fun _ => rfl }

theorem scanStart_noisy {p : Params} (hp : p.valid = true) (k : Nat) {x : Byte}
    (hx : IsNoise p x) : NoisyScan k (scanStart p k x) where
  valid := hp
  phase := rfl
  hunting := rfl
  noStop := rfl
  noIdle := rfl
  chunkNoise := nofun
  rxNoise y hy := by rwa [List.eq_of_mem_replicate hy]
  supply := Nat.le_of_eq List.length_replicate.symm
  answers := ⟨k, le_rfl, rfl⟩
  work := .inl (.inl rfl)

/-- Settles O59: a scan of `k` chunks of noise takes more than `k` steps. -/
theorem scanOfAnyLengthExists : Obligations.ScanOfAnyLengthExists := by
  intro p k hp
  obtain ⟨x, hx⟩ := exists_noise p
  have hinv := scanStart_inv hp k x
  obtain ⟨t, ht, hscan⟩ := (scanStart_noisy hp k hx).run
  exact ⟨scanStart p k x, t, rfl, hinv, .of_not_endsNext rfl rfl, rfl, rfl, rfl, ht, hscan.phase,
    runSteps_inv hinv ht⟩

/-! ### A quiet link -/

/-- READ_ALL about to make its end-of-chunk test on a quiet link, no byte waiting. -/
structure QuietScan (rest : List Cont) (s : State) : Prop where
  valid : s.cfg.valid = true
  chunk : s.chunk = []
  test : s.testNext (.finish .readAll :: rest)
  hunting : s.state = .sync1
  noStop : s.stopSeen = false
  rx : s.rx = []
  rxTail : s.rxTail = .quiet

/-- From `s` to `t` READ_ALL made `reads` reads, found nothing and ended in TIMEOUT. -/
structure QuietEnd (reads : Nat) (s t : State) : Prop where
  outcome : t.outcome = .timeout
  idle : t.dphase = .idle
  hunting : t.state = .sync1
  trace : t.trace = List.replicate reads (.read s.cfg.chunkLen true) ++ s.trace
  tx : t.tx = s.tx
  pb : t.pb = s.pb
  api : t.api = s.api

/-- The reads that `c` bytes each need to bring the count `i` to the bound `b`: none are left once it is
reached. -/
theorem bound_le_of_no_reads {b i c : Nat} (hc : 1 ≤ c) (h : (b - i + c - 1) / c = 0) : b ≤ i := by
  rcases Nat.div_eq_zero_iff.mp h with h | h <;> omega

/-- Below the bound one read leaves one read fewer, although the count saturates. -/
theorem reads_after_read {b i c reads : Nat} (hc : 1 ≤ c) (hb : b ≤ 65535)
    (h : (b - i + c - 1) / c = reads + 1) :
    i < b ∧ (b - min (i + c) 65535 + c - 1) / c = reads := by
  have hlt : i < b := by
    by_contra hge
    rw [Nat.sub_eq_zero_of_le (Nat.le_of_not_lt hge), Nat.div_eq_of_lt (by omega)] at h
    omega
  have hpred : (b - i - 1) / c = reads := by
    rw [show b - i + c - 1 = b - i - 1 + c by omega, Nat.add_div_right _ hc] at h
    omega
  refine ⟨hlt, ?_⟩
  by_cases hlast : b ≤ i + c
  · rw [← hpred, Nat.div_eq_of_lt (by omega), Nat.div_eq_of_lt (by omega)]
  · rw [← hpred]
    congr 1
    omega

/-- A read of a quiet link has been answered Ok, and its idle fill is fed. -/
def State.readQuietly (s : State) (rest : List Cont) (tp : List TpAnswer) : State :=
  (s.hasRead (.loopUnlessFailed :: .finish .readAll :: rest) tp).idled s.cfg.chunkLen

theorem QuietScan.read (h : QuietScan rest s) (hlt : s.idleRun.toNat < s.cfg.idleBound)
    (htp : s.tp = .ok :: tp) : Reaches s (s.readQuietly rest tp) := by
  refine .read h.chunk h.test (sessionEnd_of_lt h.noStop hlt) htp ?_
  rw [rxNext_of_quiet h.rx h.rxTail]
  exact execFeedChunk_idle (s := s.hasRead _ tp) _ h.hunting (idle_ne_sync1 h.valid)

/-- After a read of a quiet link the test is next again. -/
theorem QuietScan.readQuietly (h : QuietScan rest s) (tp : List TpAnswer) :
    QuietScan rest (s.readQuietly rest tp) :=
  ⟨h.valid, h.chunk, .inr ⟨rfl, rfl⟩, h.hunting, h.noStop,
    (congrArg (List.drop _) h.rx).trans List.drop_nil, h.rxTail⟩

/-- The read before the others is one more. -/
theorem QuietEnd.of_readQuietly {reads : Nat} (h : QuietEnd reads (s.readQuietly rest tp) t) :
    QuietEnd (reads + 1) s t where
  outcome := h.outcome
  idle := h.idle
  hunting := h.hunting
  trace := by
    rw [List.replicate_succ', List.append_assoc]
    exact h.trace
  tx := h.tx
  pb := h.pb
  api := h.api

/-- A quiet scan ends once as many reads as it takes have brought the count to the bound (R167). -/
theorem QuietScan.timesOut {reads : Nat} {more : List TpAnswer} (h : QuietScan rest s)
    (hreads : (s.cfg.idleBound - s.idleRun.toNat + s.cfg.chunkLen - 1) / s.cfg.chunkLen = reads)
    (htp : s.tp = List.replicate reads .ok ++ more) :
    ∃ t, Reaches s t ∧ t.tp = more ∧ t.todo = rest ∧ QuietEnd reads s t := by
  induction reads generalizing s with
  | zero =>
    have hbound := bound_le_of_no_reads (chunkLen_pos h.valid) hreads
    exact ⟨_, .complete h.chunk h.test (sessionEnd_of_bound h.noStop hbound), htp, rfl,
      ⟨rfl, rfl, h.hunting, rfl, rfl, rfl, rfl⟩⟩
  | succ reads ih =>
    obtain ⟨hlt, hleft⟩ := reads_after_read (chunkLen_pos h.valid) (idleBound_le h.valid) hreads
    have hcount : (s.readQuietly rest (List.replicate reads .ok ++ more)).idleRun.toNat =
        min (s.idleRun.toNat + s.cfg.chunkLen) 65535 := idled_idleRun_toNat _ _
    obtain ⟨t, hreach, hmore, htodo, hend⟩ :=
      ih (h.readQuietly _) (by rw [hcount]; exact hleft) rfl
    exact ⟨t, (h.read hlt htp).trans hreach, hmore, htodo, hend.of_readQuietly⟩

/-- Settles O55: READ_ALL is accepted, its scan begins, and from its first test it is a quiet scan with the idle
count at 0. -/
theorem quietReadAllTimesOut : Obligations.QuietReadAllTimesOut := by
  intro s more hvalid hinit hidle hc hs hrx htail reads htp
  let u : State := State.begun { s with matchResult := .none, rxLen := 0, dphase := .scan } .none
    (.run .sessionLoop :: .finish .readAll :: s.todo)
  have hu : QuietScan s.todo u := ⟨hvalid, hc, .inl rfl, hs, rfl, hrx, htail⟩
  obtain ⟨t, hreach, hmore, htodo, hend⟩ := hu.timesOut (reads := reads) rfl htp
  obtain ⟨-, haccept⟩ := commandsAccepted s 0 0 hinit hidle
  refine exists_runFrom haccept (.scan hc rfl hreach) ?_
  exact ⟨hend.outcome, hend.idle, hmore, htodo, hend.trace, hend.hunting, hend.tx,
    State.pbByte_congr u t hend.pb, hend.api⟩

end Sys2Proof.Machine
end

section
/-!
PROOFS, dispatcher: a frame that arrives whole in one read, idle fill around it, and is claimed by the session's
strategy. From the bytes of the chunk to the command's completion; then the two commands that wait for such a
frame (43_dispatcher.md R172, R173).
-/

namespace Sys2Proof.Machine

variable {s t u : State} {id n m l : Half} {payload : List Byte} {mr : MatchResult} {k : CmdKind}
  {rest : List Cont} {tp : List TpAnswer}

/-- Clean is a matter of the frame's registers alone. -/
theorem State.decClean.congr (hs : s.decClean) (hst : t.state = s.state) (ha : t.ckA = s.ckA)
    (hb : t.ckB = s.ckB) (hid : t.msgId = s.msgId) (hlen : t.len = s.len) (hcnt : t.cnt = s.cnt) :
    t.decClean := by
  rwa [State.decClean, hst, ha, hb, hid, hlen, hcnt]

theorem State.decClean.begun (hs : s.decClean) (st : Strategy) (rest : List Cont) :
    (s.begun st rest).decClean := hs.congr rfl rfl rfl rfl rfl rfl

theorem State.decClean.hasRead (hs : s.decClean) (rest : List Cont) (tp : List TpAnswer) :
    (s.hasRead rest tp).decClean := hs.congr rfl rfl rfl rfl rfl rfl

theorem State.decClean.idled (hs : s.decClean) (n : Nat) : (s.idled n).decClean :=
  hs.congr rfl rfl rfl rfl rfl rfl

/-! ### A chunk, byte by byte -/

theorem execFeedChunk_append (xs ys : List Byte) (s : State) :
    execFeedChunk (xs ++ ys) s = andThen (execFeedChunk xs s) (execFeedChunk ys) := by
  induction xs generalizing s with
  | nil => rfl
  | cons x xs ih =>
    simp only [List.cons_append, execFeedChunk, andThen_assoc]
    congr 1
    funext u
    exact ih u

theorem execFeedChunk_singleton (x : Byte) (s : State) :
    execFeedChunk [x] s = mapNext (execFeed x s) State.latchStop := by
  simp only [execFeedChunk]
  cases execFeed x s <;> rfl

/-- A FEED keeps every event there was. -/
theorem execFeed_trace_suffix {x : Byte} (h : execFeed x s = .next t) : s.trace <:+ t.trace := by
  obtain ⟨new, htrace, -⟩ := feedParsingIffNoAccept s t x h
  exact ⟨new, htrace.symm⟩

theorem execFeedBulk_trace_suffix {xs : List Byte} (h : execFeedBulk xs s = .next t) :
    s.trace <:+ t.trace := by
  induction xs generalizing s with
  | nil =>
    cases h
    exact List.suffix_rfl
  | cons x xs ih =>
    obtain ⟨u, hu, h⟩ := andThen_eq_next.mp h
    exact (execFeed_trace_suffix hu).trans (ih h)

/-- A FEED without an event accepts nothing, so it returns PARSING (R127). -/
theorem execFeed_parsing_of_trace {x : Byte} (h : execFeed x s = .next t)
    (ht : t.trace = s.trace) : t.feedRes = .parsing := by
  obtain ⟨new, htrace, hparsing, -⟩ := feedParsingIffNoAccept s t x h
  have hnew : new = [] := List.append_left_eq_self.mp (htrace.symm.trans ht)
  exact hparsing.mpr (hnew ▸ noAccept_nil)

/-- Bytes that raise no event are fed by FEED_CHUNK as in bulk: no STOP is latched among them. -/
theorem execFeedChunk_of_bulk {xs : List Byte} (h : execFeedBulk xs s = .next t)
    (ht : t.trace = s.trace) : execFeedChunk xs s = .next t := by
  induction xs generalizing s with
  | nil => exact h
  | cons x xs ih =>
    obtain ⟨u, hu, h⟩ := andThen_eq_next.mp h
    have hsuffix : u.trace <:+ s.trace := ht ▸ execFeedBulk_trace_suffix h
    have htrace : s.trace = u.trace := (execFeed_trace_suffix hu).eq_of_length_le hsuffix.length_le
    rw [execFeedChunk_cons_parsing hu (execFeed_parsing_of_trace hu htrace.symm)]
    exact ih h (ht.trans htrace)

/-- A whole frame that fits, fed as a chunk to a clean decoder, ends in its accept and the latch (R125, R163). -/
theorem execFeedChunk_frameBytes (hs : s.decClean) (hl : payload.length = n.toNat)
    (hc : n.toNat ≤ s.cap.toNat) :
    execFeedChunk (frameBytes s.cfg id n payload) s =
      mapNext (execAccept id n (s.atCkB id n payload).clearDec) State.latchStop := by
  have htaken := execFeedBulk_take_to_ckA (id := id) hs hl hc
  rw [frameBytes_take_to_ckA s.cfg hl] at htaken
  have hlast : execFeed (frameChecksum id n payload).2 (s.atCkB id n payload) = _ :=
    feed_accept rfl rfl
  rw [frameBytes_eq_concat, execFeedChunk_append, execFeedChunk_of_bulk htaken rfl, andThen_next,
    execFeedChunk_singleton, hlast]
  rfl

/-! ### A claimed frame -/

/-- In the session of `s` a frame with this payload is claimed: whatever else the decoder did on its way, the
strategy answers STOP, `match_result` becomes `mr` and `rx_len` becomes `l`. -/
def State.claims (s : State) (id n : Half) (payload : List Byte) (mr : MatchResult) (l : Half) :
    Prop :=
  ∀ u : State, u.cfg = s.cfg → u.cap = s.cap → u.intCb = s.intCb → u.awaitId = s.awaitId →
    u.rxLen = s.rxLen → u.pb = Memory.setFrom s.pb 0 payload →
    runStrategy id n u = .next (State.setResult { u with matchResult := mr, rxLen := l } .stop)

/-- The state after a frame that the strategy claimed. -/
def State.claimed (s : State) (id n : Half) (payload : List Byte) (mr : MatchResult) (l : Half) :
    State :=
  { s.clearDec with
    pb := Memory.setFrom s.pb 0 payload
    matchResult := mr
    rxLen := l
    feedRes := .stop
    stopSeen := true
    trace := .accepted id n :: s.trace }

theorem execFeedChunk_claimed (hs : s.decClean) (hl : payload.length = n.toNat)
    (hc : n.toNat ≤ s.cap.toNat) (hclaim : s.claims id n payload mr l) :
    execFeedChunk (frameBytes s.cfg id n payload) s = .next (s.claimed id n payload mr l) := by
  have hstrategy := hclaim ((s.atCkB id n payload).clearDec.record (.accepted id n))
    rfl rfl rfl rfl rfl rfl
  rw [execFeedChunk_frameBytes hs hl hc, execAccept_of_strategy hstrategy, if_neg (by simp),
    mapNext_next, latchStop_of_stop rfl]
  rfl

/-! ### The read that brings the frame -/

theorem pbByte_of_setFrom {j : Nat} {v : Byte} (h : u.pb = Memory.setFrom s.pb 0 payload)
    (hv : payload[j]? = some v) : u.pbByte j = v := by
  simp [State.pbByte, h, Memory.get?_setFrom, hv]

/-- Bytes stored from address 0 read back. -/
theorem pbBytes_of_setFrom {j : Nat} (h : u.pb = Memory.setFrom s.pb 0 payload)
    (hl : payload.length = j) : u.pbBytes j = payload := by
  apply List.ext_getElem ((State.pbBytes_length u j).trans hl.symm)
  intro i hi hi'
  simp only [State.pbBytes, List.getElem_map, List.getElem_range]
  exact pbByte_of_setFrom h (List.getElem?_eq_getElem hi')

/-- A frame in one read, with idle fill before and after it. -/
structure IncomingFrame where
  id : Half
  n : Half
  payload : List Byte
  before : Nat
  after : Nat

def IncomingFrame.bytes (f : IncomingFrame) (p : Params) : List Byte :=
  List.replicate f.before p.idle ++ frameBytes p f.id f.n f.payload ++
    List.replicate f.after p.idle

/-- The frame is well formed, its payload fits PB, and with its fill it is one chunk. -/
structure IncomingFrame.fits (f : IncomingFrame) (s : State) : Prop where
  payload : f.payload.length = f.n.toNat
  cap : f.n.toNat ≤ s.cap.toNat
  chunk : s.cfg.chunkLen = f.before + (f.n.toNat + 8) + f.after

theorem IncomingFrame.bytes_length {f : IncomingFrame} (hf : f.fits s) :
    (f.bytes s.cfg).length = s.cfg.chunkLen := by
  rw [IncomingFrame.bytes, List.length_append, List.length_append, List.length_replicate,
    List.length_replicate, frameBytes_length s.cfg hf.payload, hf.chunk]

/-- The state after a chunk whose frame the strategy claimed. -/
def State.afterClaim (s : State) (f : IncomingFrame) (mr : MatchResult) (l : Half) : State :=
  ((s.idled f.before).claimed f.id f.n f.payload mr l).idled f.after

theorem execFeedChunk_afterClaim {f : IncomingFrame} (hvalid : s.cfg.valid = true)
    (hs : s.decClean) (hf : f.fits s) (hclaim : s.claims f.id f.n f.payload mr l) :
    execFeedChunk (f.bytes s.cfg) s = .next (s.afterClaim f mr l) := by
  have hidle := idle_ne_sync1 hvalid
  have hframe : execFeedChunk (frameBytes s.cfg f.id f.n f.payload) (s.idled f.before) =
      .next ((s.idled f.before).claimed f.id f.n f.payload mr l) :=
    execFeedChunk_claimed (s := s.idled f.before) (hs.idled _) hf.payload hf.cap hclaim
  rw [IncomingFrame.bytes, execFeedChunk_append, execFeedChunk_append,
    execFeedChunk_idle _ hs.1 hidle, andThen_next, hframe, andThen_next]
  exact execFeedChunk_idle (s := (s.idled f.before).claimed f.id f.n f.payload mr l) _ rfl hidle

/-- From `s` to `t` a read brought the frame `f`, the session's strategy claimed it with `mr` and `l`, and the
command `k` completed. -/
structure ClaimedEnd (f : IncomingFrame) (k : CmdKind) (mr : MatchResult) (l : Half) (s t : State) :
    Prop where
  outcome : t.outcome = commandOutcome k .stopped mr
  matchResult : t.matchResult = mr
  rxLen : t.rxLen = l
  idle : t.dphase = .idle
  intCb : t.intCb = .none
  stopSeen : t.stopSeen = true
  payload : t.pbBytes f.n.toNat = f.payload
  clean : t.decClean
  tx : t.tx = s.tx
  api : t.api = s.api
  trace : t.trace = .accepted f.id f.n :: .read s.cfg.chunkLen true :: s.trace

/-- A session whose next read brings a frame that its strategy claims stops after that read, and its command
completes. -/
theorem reaches_claimedEnd {f : IncomingFrame} {more : List Byte} (hvalid : s.cfg.valid = true)
    (hc : s.chunk = []) (htest : s.testNext (.finish k :: rest)) (hend : s.sessionEnd = none)
    (hs : s.decClean) (htp : s.tp = .ok :: tp) (hf : f.fits s) (hrx : s.rx = f.bytes s.cfg ++ more)
    (hclaim : s.claims f.id f.n f.payload mr l) :
    ∃ t, Reaches s t ∧ t.todo = rest ∧ t.tp = tp ∧ t.rx = more ∧ ClaimedEnd f k mr l s t := by
  let u := s.hasRead (.loopUnlessFailed :: .finish k :: rest) tp
  have hread : Reaches s (u.afterClaim f mr l) := .read hc htest hend htp (by
    rw [rxNext_of_append hrx (f.bytes_length hf)]
    exact execFeedChunk_afterClaim (s := u) hvalid (hs.hasRead _ _)
      ⟨hf.payload, hf.cap, hf.chunk⟩ hclaim)
  refine ⟨_, hread.trans (.complete hc (.inr ⟨rfl, rfl⟩) (sessionEnd_of_stop rfl)), rfl, rfl, ?rx,
    rfl, rfl, rfl, rfl, rfl, rfl, pbBytes_of_setFrom rfl hf.payload, ⟨rfl, rfl, rfl, rfl, rfl, rfl⟩,
    rfl, rfl, rfl⟩
  case rx =>
    change s.rx.drop s.cfg.chunkLen = more
    rw [hrx, List.drop_left' (f.bytes_length hf)]

/-! ### The send, and the idle fill it receives -/

/-- TXRX has been answered Ok, and its bytes are taken from the RX stream but not yet fed. -/
def State.hasSent (s : State) (id n : Half) (rest : List Cont) (tp : List TpAnswer) : State :=
  { s with
    dphase := .txrx
    txCkA := (frameChecksum id n (s.pbBytes n.toNat)).1
    txCkB := (frameChecksum id n (s.pbBytes n.toNat)).2
    txFrame := frameBytes s.cfg id n (s.pbBytes n.toNat)
    todo := rest
    tp := tp
    tx := s.tx ++ frameBytes s.cfg id n (s.pbBytes n.toNat)
    rx := s.rx.drop (n.toNat + 8)
    trace := .transceive (n.toNat + 8) true :: s.trace
    ret := .done
    fresh := s.fresh + 1 }

theorem State.decClean.hasSent (hs : s.decClean) (id n : Half) (rest : List Cont)
    (tp : List TpAnswer) : (s.hasSent id n rest tp).decClean := hs.congr rfl rfl rfl rfl rfl rfl

theorem step_txrx (hc : s.chunk = []) (ht : s.todo = .run (.txrx id n) :: rest)
    (hn : n.toNat ≤ s.cap.toNat) (htp : s.tp = .ok :: tp) :
    step s = .next { s.hasSent id n rest tp with chunk := s.rxNext (n.toNat + 8) } := by
  obtain ⟨hlen, -, hsend, -⟩ := txrxResult { s with todo := rest } id n .ok tp hn htp
  have hsend := hsend rfl
  rw [hlen] at hsend
  refine (step_run hc ht).trans (hsend.trans ?_)
  change Host.Outcome.next { s.hasSent id n rest tp with
    chunk := s.chunk ++ s.rxNext (n.toNat + 8) } = _
  rw [hc, List.nil_append]

/-- From `s` to `t` a session under `st` began, its frame went out, and it received idle fill in return. -/
structure SentQuietly (id n : Half) (st : Strategy) (s t : State) : Prop where
  cfg : t.cfg = s.cfg
  cap : t.cap = s.cap
  chunk : t.chunk = []
  clean : t.decClean
  intCb : t.intCb = st
  awaitId : t.awaitId = s.awaitId
  rxLen : t.rxLen = s.rxLen
  stopSeen : t.stopSeen = false
  idleRun : t.idleRun.toNat ≤ n.toNat + 8
  done : t.ret = .done
  tx : t.tx = s.tx ++ frameBytes s.cfg id n (s.pbBytes n.toNat)
  api : t.api = s.api
  trace : t.trace = .transceive (n.toNat + 8) true :: s.trace

/-- A session that begins with a send, answered Ok, and receives idle fill in return (R168, R173). -/
theorem reaches_sentQuietly {st : Strategy} {more : List Byte} (hvalid : s.cfg.valid = true)
    (hc : s.chunk = []) (hs : s.decClean)
    (ht : s.todo = .run (.sessionBegin st) :: .run (.txrx id n) :: rest)
    (hn : n.toNat ≤ s.cap.toNat) (htp : s.tp = .ok :: tp)
    (hrx : s.rx = List.replicate (n.toNat + 8) s.cfg.idle ++ more) :
    ∃ t, Reaches s t ∧ t.todo = rest ∧ t.tp = tp ∧ t.rx = more ∧ SentQuietly id n st s t := by
  let v := s.begun st (.run (.txrx id n) :: rest)
  let w := v.hasSent id n rest tp
  have hnext : v.rxNext (n.toNat + 8) = List.replicate (n.toNat + 8) s.cfg.idle :=
    rxNext_of_append (s := v) hrx List.length_replicate
  have hfed : execFeedChunk (v.rxNext (n.toNat + 8)) w = .next (w.idled (n.toNat + 8)) := by
    rw [hnext]
    exact execFeedChunk_idle (s := w) _ hs.1 (idle_ne_sync1 hvalid)
  have hreach : Reaches s (w.idled (n.toNat + 8)) :=
    .sessionBegin hc ht (.step (step_txrx (s := v) hc rfl hn htp) (.chunk (s := w) hc hfed))
  have hquiet : SentQuietly id n st s (w.idled (n.toNat + 8)) := by
    refine ⟨rfl, rfl, hc, ((hs.begun _ _).hasSent ..).idled _, rfl, rfl, rfl, rfl, ?idleRun, rfl,
      rfl, rfl, rfl⟩
    case idleRun =>
      rw [idled_idleRun_toNat]
      exact (min_le_left _ _).trans (Nat.le_of_eq (Nat.zero_add _))
  refine ⟨_, hreach, rfl, rfl, ?_, hquiet⟩
  exact (congrArg _ hrx).trans (List.drop_left' List.length_replicate)

/-! ### SEND_WAIT_REPLY -/

/-- MATCH_REPLY claims every frame with the awaited id (R142). -/
theorem claims_reply (hcb : s.intCb = .matchReply) (hid : s.awaitId = id) :
    s.claims id n payload .replied n := by
  intro u _ _ hucb huid _ _
  exact (runStrategy_of_matchReply (hucb.trans hcb)).trans
    (execStratMatchReply_of_eq (huid.trans hid).symm)

/-- The stream of a command whose send meets idle fill and whose next read brings the frame `f`. -/
theorem rx_eq_of_incoming {f : IncomingFrame} {p : Params} {rx more : List Byte} {j : Nat}
    (h : rx = List.replicate (j + f.before) p.idle ++ frameBytes p f.id f.n f.payload ++
      List.replicate f.after p.idle ++ more) :
    rx = List.replicate j p.idle ++ (f.bytes p ++ more) := by
  rw [h, List.replicate_add]
  simp only [IncomingFrame.bytes, List.append_assoc]

/-- Settles O56: the request goes out and meets idle fill, and the one read brings the claimed reply. -/
theorem replyCompletesThePoll : Obligations.ReplyCompletesThePoll := by
  intro s id n m payload before after more rest hvalid hinit hidle hc hs hn hl hm hbound hchunk hrx htp
  let f : IncomingFrame := ⟨id, m, payload, before, after⟩
  let v : State := { s with
    matchResult := .none, rxLen := 0, awaitId := id, dphase := .txrx
    todo := .run (.sessionBegin .matchReply) :: .run (.txrx id n) :: .loopUnlessFailed ::
      .finish .reply :: s.todo }
  obtain ⟨w, hsent, hwtodo, hwtp, hwrx, hw⟩ :=
    reaches_sentQuietly (s := v) hvalid hc hs rfl hn htp (rx_eq_of_incoming (f := f) hrx)
  have hend : w.sessionEnd = none :=
    sessionEnd_of_lt hw.stopSeen (hw.cfg ▸ Nat.lt_of_le_of_lt hw.idleRun hbound)
  obtain ⟨t, hclaimed, htodo, htp, hrx, ht⟩ := reaches_claimedEnd (f := f) (more := more)
    (hw.cfg ▸ hvalid) hw.chunk (.inr ⟨hwtodo, hw.done⟩) hend hw.clean hwtp
    ⟨hl, hw.cap ▸ hm, hw.cfg ▸ hchunk⟩ (hw.cfg ▸ hwrx) (claims_reply hw.intCb hw.awaitId)
  have haccept : exec (.sendWaitReply id n) s = .next _ := sendAndWaitReply_of_ready hinit hidle hn
  refine exists_runFrom haccept (.run hc rfl rfl (hsent.trans hclaimed)) ?_
  exact ⟨ht.outcome, ht.rxLen, ht.matchResult, ht.idle, ht.intCb, ht.stopSeen, ht.payload, ht.clean,
    ht.tx.trans hw.tx, hrx, htp, htodo, ht.api.trans hw.api, by rw [ht.trace, hw.trace, hw.cfg]⟩

/-! ### SEND_WAIT_ACK -/

theorem runStrategy_of_matchAcknak (h : s.intCb = .matchAcknak) :
    runStrategy id n s = execStratMatchAcknak id n s := by
  rw [runStrategy, h]

/-- An ACK-ACK or ACK-NAK frame goes to the part MATCH_ACKNAK's two ids share (R82, R143). -/
theorem execStratMatchAcknak_of_isAck (h : s.cfg.ackAckId ≠ s.cfg.ackNakId) (isAck : Bool) :
    execStratMatchAcknak (if isAck then s.cfg.ackAckId else s.cfg.ackNakId) n s =
      matchAcknowledged isAck n s := by
  cases isAck with
  | true => exact execStratMatchAcknak_of_ack
  | false => exact execStratMatchAcknak_of_nak h

/-- A payload that holds both bytes of the layout is long enough for it (R143). -/
theorem ackLen_le {p : Params} {c i : Byte} (hclass : payload[p.ackClassAt]? = some c)
    (hid : payload[p.ackIdAt]? = some i) : p.ackLen ≤ payload.length := by
  obtain ⟨hclass, -⟩ := List.getElem?_eq_some_iff.mp hclass
  obtain ⟨hid, -⟩ := List.getElem?_eq_some_iff.mp hid
  exact Nat.succ_le_of_lt (max_lt hclass hid)

/-- MATCH_ACKNAK claims an acknowledging frame that holds the awaited class and id where the layout has them. -/
theorem claims_acknak {c i : Byte} (hvalid : s.cfg.valid = true) (hcb : s.intCb = .matchAcknak)
    (isAck : Bool) (hl : payload.length = n.toNat) (hn : n.toNat ≤ s.cap.toNat)
    (hclass : payload[s.cfg.ackClassAt]? = some c) (hid : payload[s.cfg.ackIdAt]? = some i)
    (hawait : s.awaitId = c ++ i) :
    s.claims (if isAck then s.cfg.ackAckId else s.cfg.ackNakId) n payload (ackMatch isAck)
      s.rxLen := by
  intro u hcfg hcap hucb huid hurx hpb
  have hlen : s.cfg.ackLen ≤ n.toNat := hl ▸ ackLen_le hclass hid
  have hmatch : joinBytes (u.pbByte u.cfg.ackClassAt) (u.pbByte u.cfg.ackIdAt) = u.awaitId := by
    rw [hcfg, pbByte_of_setFrom hpb hclass, pbByte_of_setFrom hpb hid, huid, hawait]
    rfl
  rw [runStrategy_of_matchAcknak (hucb.trans hcb), ← hcfg,
    execStratMatchAcknak_of_isAck (hcfg ▸ ackAckId_ne_ackNakId hvalid),
    matchAcknowledged_of_inPB isAck (hcfg ▸ hlen) (hcfg ▸ hcap ▸ hlen.trans hn), if_pos hmatch, ← hurx]

/-- After session A, done, session B begins and comes to its first test (R173). -/
theorem Reaches.scanUnlessFailed (hc : s.chunk = []) (ht : s.todo = .scanUnlessFailed :: rest)
    (hret : s.ret = .done) (hr : Reaches (s.begun .matchAcknak (.run .sessionLoop :: rest)) t) :
    Reaches s t := by
  refine .step ((step_scan hc ht).trans (scanUnlessFailed_of_done hret))
    (.sessionBegin (st := .matchAcknak) (rest := .run .sessionLoop :: rest) hc rfl ?_)
  exact hr

/-- Settles O57: session A sends and meets idle fill, and session B's one read brings the claimed frame. -/
theorem ackOrNakDecidesTheSend : Obligations.AckOrNakDecidesTheSend := by
  intro s n m c i payload isAck before after more rest hvalid hinit hidle hc hs hn hl hm hclass hid
    ackId hchunk hrx htp
  let f : IncomingFrame := ⟨ackId, m, payload, before, after⟩
  let v : State := { s with
    matchResult := .none, rxLen := 0, awaitId := c ++ i, dphase := .txrx
    todo := .run (.sessionBegin .none) :: .run (.txrx (c ++ i) n) :: .scanUnlessFailed ::
      .finish .ack :: s.todo }
  obtain ⟨w, hsent, hwtodo, hwtp, hwrx, hw⟩ :=
    reaches_sentQuietly (s := v) hvalid hc hs rfl hn htp (rx_eq_of_incoming (f := f) hrx)
  let b := w.begun .matchAcknak (.run .sessionLoop :: .finish .ack :: s.todo)
  have hcfg : b.cfg = s.cfg := hw.cfg
  have hend : b.sessionEnd = none := sessionEnd_of_lt rfl (hcfg ▸ idleBound_pos hvalid)
  have hclaim : b.claims ackId m payload (ackMatch isAck) 0 := by
    have h := claims_acknak (s := b) (hcfg ▸ hvalid) rfl isAck hl (hw.cap ▸ hm) (hcfg ▸ hclass)
      (hcfg ▸ hid) hw.awaitId
    rwa [hcfg, show b.rxLen = 0 from hw.rxLen] at h
  obtain ⟨t, hclaimed, htodo, htp, hrx, ht⟩ := reaches_claimedEnd (s := b) (f := f) (more := more)
    (hcfg ▸ hvalid) hw.chunk (.inl rfl) hend (hw.clean.begun _ _) hwtp ⟨hl, hw.cap ▸ hm, hcfg ▸ hchunk⟩
    (hcfg ▸ hwrx) hclaim
  have haccept : exec (.sendWaitAck (c ++ i) n) s = .next _ := admitSend_of_ready hinit hidle hn
  refine exists_runFrom haccept
    (hsent.trans (.scanUnlessFailed hw.chunk hwtodo hw.done hclaimed)) ?_
  refine ⟨ht.outcome.trans ?outcome, ht.matchResult, ht.rxLen, ht.idle, ht.intCb,
    ht.tx.trans hw.tx, hrx, htp, htodo, ht.api.trans hw.api, ?trace⟩
  case outcome => cases isAck <;> rfl
  case trace =>
    rw [ht.trace, hcfg]
    exact congrArg _ (congrArg _ hw.trace)

end Sys2Proof.Machine
end

section
/-!
PROOFS, the host's idiom POLL_MODIFY_SEND (44_command_idiom.md R190): its poll with and without a poll byte,
and each end of the compare that follows the poll.
-/

namespace Sys2Proof.Machine

variable {s t : State} {id : Half} {e : Edit}

/-! ### The poll -/

/-- With room for the poll byte, the idiom is SEND_WAIT_REPLY after the write, the compare listed behind. -/
theorem execPollModifySend_some_of_ready {b : Byte} (hi : s.inited = true) (hd : s.dphase = .idle)
    (hcap : 0 < s.cap.toNat) :
    execPollModifySend id (some b) e s =
      sendAndWaitReply id 1 (State.push { s with pb := Memory.set s.pb 0 b } [.compare id e]) := by
  rw [execPollModifySend, hostWrite_eq_next.mpr ⟨hi, hd, hcap, rfl⟩, andThen_next]

/-- Without room for the poll byte the host's write is refused, and the idiom with it (assumption log 32). -/
theorem execPollModifySend_some_of_cap_zero {b : Byte} (hi : s.inited = true) (hd : s.dphase = .idle)
    (hcap : s.cap.toNat ≤ 0) : execPollModifySend id (some b) e s = .refused .hostOutsidePB := by
  obtain ⟨houtside, -⟩ := hostWrite_refusals s 0 b
  rw [execPollModifySend, houtside hi hd hcap, andThen_refused]

/-! ### The compare -/

/-- A poll that did not end OK ends the idiom. -/
theorem compareAndSend_of_not_ok (hd : s.dphase = .idle) (ho : s.outcome ≠ .ok) :
    compareAndSend id e s = .next s := by
  simp [compareAndSend, hd, ho]

/-- A record that already holds what the host desires is not sent. -/
theorem compareAndSend_of_same (hd : s.dphase = .idle) (ho : s.outcome = .ok)
    (hn : s.rxLen.toNat ≤ s.cap.toNat) (hsame : editDiffers e (s.pbBytes s.rxLen.toNat) = false) :
    compareAndSend id e s = .next s := by
  simp [compareAndSend, hd, ho, memReadUpTo_of_le hn, hsame]

/-- A record that differs is written back changed, and its send is next. -/
theorem compareAndSend_of_differs (hd : s.dphase = .idle) (ho : s.outcome = .ok)
    (hn : s.rxLen.toNat ≤ s.cap.toNat) (hdiff : editDiffers e (s.pbBytes s.rxLen.toNat) = true) :
    compareAndSend id e s = .next (State.push
      { s with pb := Memory.setFrom s.pb 0 (editApply e (s.pbBytes s.rxLen.toNat)) }
      [.run (.sendWaitAck id s.rxLen)]) := by
  simp [compareAndSend, hd, ho, memReadUpTo_of_le hn, hdiff]

/-- Storing consecutive bytes leaves every byte of PB outside them. -/
theorem samePBOutside_of_setFrom {a k : Nat} {vs : List Byte}
    (h : t.pb = Memory.setFrom s.pb a vs) (hl : vs.length = k) : samePBOutside a k s t := by
  intro b hb
  rw [State.pbByte, h, Memory.get?_setFrom]
  obtain hbefore | hafter := hb
  · rw [if_neg (Nat.not_le.mpr hbefore), State.pbByte]
  · rw [List.getElem?_eq_none (by omega), Option.none_or, ite_self, State.pbByte]

/-- The changed record replaces the one read; PB outside it and every register are as before. -/
theorem compareAndSend_frame (rest : List Cont) (hd : s.dphase = .idle) (ho : s.outcome = .ok)
    (hn : s.rxLen.toNat ≤ s.cap.toNat) (hdiff : editDiffers e (s.pbBytes s.rxLen.toNat) = true) :
    ∃ t, compareAndSend id e { s with todo := rest } = .next t ∧
      t.todo = .run (.sendWaitAck id s.rxLen) :: rest ∧
      t.pbBytes s.rxLen.toNat = editApply e (s.pbBytes s.rxLen.toNat) ∧
      samePBOutside 0 s.rxLen.toNat s t ∧ sameRegsExcept [] s t := by
  have hlen : (editApply e (s.pbBytes s.rxLen.toNat)).length = s.rxLen.toNat := by
    rw [editApply_length, State.pbBytes_length]
  refine ⟨_, compareAndSend_of_differs (s := { s with todo := rest }) hd ho hn hdiff, rfl,
    pbBytes_of_setFrom (s := s) rfl hlen, samePBOutside_of_setFrom rfl hlen, ?registers⟩
  intro r _
  cases r <;> rfl

/-- Settles O44: the poll is SEND_WAIT_REPLY with the compare behind it, and the compare has three ends. -/
theorem pollModifySend : Obligations.PollModifySend := by
  intro s id e
  refine ⟨fun hi hd => ⟨?empty, fun b hcap => ?byte⟩, fun hi hd hcap b => ?refused,
    fun rest hc ht hd => ?compare⟩
  case empty =>
    exact sendAndWaitReply_of_ready (s := s.push [.compare id e]) hi hd (Nat.zero_le _)
  case byte =>
    exact (execPollModifySend_some_of_ready hi hd hcap).trans (sendAndWaitReply_of_ready
      (s := State.push { s with pb := Memory.set s.pb 0 b } [.compare id e]) hi hd hcap)
  case refused => exact execPollModifySend_some_of_cap_zero hi hd (Nat.le_of_lt_succ hcap)
  case compare =>
    rw [step_compare hc ht]
    let u : State := { s with todo := rest }
    exact ⟨compareAndSend_of_not_ok (s := u) hd, fun ho hn =>
      ⟨compareAndSend_of_same (s := u) hd ho hn, compareAndSend_frame rest hd ho hn⟩⟩

end Sys2Proof.Machine
end

section
/-!
PROOFS, exceptions: a framing error's FEED, and a transport that fails (60_exceptions.md R201, R203). A command
whose first transaction fails makes no other and completes in IO_ERROR.
-/

namespace Sys2Proof.Machine

variable {s t : State} {x : Byte} {ev : TraceEvent} {id n e : Half} {sent : Nat} {c : Cont}
  {k : CmdKind} {st : Strategy} {rest : List Cont} {tp : List TpAnswer}

/-! ### Framing errors -/

/-- A FEED whose one new event is not a frame-accept event is a framing error. -/
theorem execFeed_eq_framed (h : execFeed x s = .next t) (htrace : t.trace = ev :: s.trace)
    (hev : ∀ id n, TraceEvent.accepted id n ≠ ev) : t = s.framed ev := by
  have hparsing : t.feedRes = .parsing := by
    obtain ⟨new, hnew, hiff, -⟩ := feedParsingIffNoAccept s t x h
    obtain rfl : [ev] = new := List.append_cancel_right (htrace.symm.trans hnew)
    exact hiff.mpr (noAccept_singleton hev)
  have heffect := execFeed_effect s x
  rw [h] at heffect
  generalize ho : (Host.Outcome.next t : Res) = o at heffect
  cases heffect
  case accept | lenient =>
    obtain ⟨-, hanswered, -⟩ := execAccept_effect ho.symm
    exact absurd hparsing hanswered
  all_goals cases ho
  case miss2 | overrun | miss1 | strict =>
    obtain rfl := List.head_eq_of_cons_eq htrace
    rfl
  all_goals exact absurd htrace.symm (List.cons_ne_self _ _)

/-- Settles O60: the next state is RESET_DEC with the result PARSING and the event traced. -/
theorem rejectedFramesAreSilent : Obligations.RejectedFramesAreSilent := by
  intro s t x ev h htrace hev
  have hframed : t = s.framed ev :=
    execFeed_eq_framed h htrace (by rcases hev with rfl | rfl | rfl | rfl <;> exact nofun)
  subst hframed
  refine ⟨rfl, ⟨rfl, rfl, rfl, rfl, rfl, rfl⟩, rfl, fun _ => rfl, ?registers, ⟨rfl, rfl, rfl, rfl⟩,
    ⟨rfl, rfl, rfl, rfl, rfl, rfl, rfl⟩, ⟨rfl, rfl⟩⟩
  intro r hr
  cases r
  case state | ckA | ckB | msgId | len | cnt | idleRun => exact absurd hr (by decide)
  all_goals rfl

/-! ### A failed transaction -/

/-- A command has completed after a transaction that failed with `e` (R176). -/
def State.failed (s : State) (e : Half) (rest : List Cont) : State :=
  { s with todo := rest, intCb := .none, outcome := .ioError, ioCode := e, dphase := .idle }

/-- What stands after a command's first transaction passes its failure on to the completion (R168, R173). -/
theorem reaches_failed (hc : s.chunk = []) (ht : s.todo = c :: .finish k :: rest)
    (hcont : c = .loopUnlessFailed ∨ c = .scanUnlessFailed) (hret : s.ret = .failed e) :
    Reaches s (s.failed e rest) := by
  let v : State := { s with todo := .finish k :: rest }
  have hpass : step s = .next v := by
    rcases hcont with rfl | rfl
    · exact (step_loop hc ht).trans (loopUnlessFailed_of_failed hret)
    · exact (step_scan hc ht).trans (scanUnlessFailed_of_failed hret)
  have hfinish : step v = .next (s.failed e rest) :=
    (step_finish (s := v) hc rfl).trans (finishCommand_of_failed hret)
  exact .step hpass (.step hfinish (.refl _))

/-- From `s` to `t` a command's first transaction failed with `e`, which left `tp` of the transport's answers,
and the command completed. -/
def State.failsTo (s : State) (e : Half) (tp : List TpAnswer) (t : State) : Prop :=
  ∃ id a b f j tx tr, t = { s with
    awaitId := id, matchResult := .none, rxLen := 0, stopSeen := false, idleRun := 0, txCkA := a
    txCkB := b, intCb := .none, outcome := .ioError, ioCode := e, dphase := .idle, ret := .failed e
    txFrame := f, tp := tp, fresh := j, tx := tx, trace := tr }

/-- A session whose send fails. -/
theorem reaches_failedSend (hc : s.chunk = []) (hn : n.toNat ≤ s.cap.toNat)
    (htp : s.tp = .err e sent :: tp) (hcont : c = .loopUnlessFailed ∨ c = .scanUnlessFailed) :
    ∃ t, Reaches { s.beginSend id with
      todo := .run (.sessionBegin st) :: .run (.txrx id n) :: c :: .finish k :: s.todo } t ∧
      s.failsTo e tp t := by
  obtain ⟨-, -, -, hsend, -⟩ :=
    txrxResult ((s.beginSend id).begun st (c :: .finish k :: s.todo)) id n _ tp hn htp
  exact ⟨_, .sessionBegin hc rfl (.run hc rfl (hsend e sent rfl) (reaches_failed hc rfl hcont rfl)),
    _, _, _, _, _, _, _, rfl⟩

/-- READ_ALL's scan, whose first read fails: a session's first test lets it read (R166). -/
theorem reaches_failedScan (hvalid : s.cfg.valid = true) (hc : s.chunk = [])
    (htp : s.tp = .err e sent :: tp) :
    ∃ t, Reaches { s with
      matchResult := .none, rxLen := 0, dphase := .scan
      todo := .run (.scan .none) :: .finish k :: s.todo } t ∧ s.failsTo e tp t := by
  let v : State := State.begun { s with matchResult := .none, rxLen := 0, dphase := .scan } .none
    (.run .sessionLoop :: .finish k :: s.todo)
  have htest : step v = .next _ :=
    step_test_of_none hc (.inl rfl) (sessionEnd_of_lt rfl (idleBound_pos hvalid))
  obtain ⟨-, -, hread, -⟩ :=
    readChunkResult { v with todo := .loopUnlessFailed :: .finish k :: s.todo } _ tp htp
  exact ⟨_, .scan hc rfl (.step htest
    (.run hc rfl (hread e sent rfl) (reaches_failed hc rfl (.inl rfl) rfl))), _, _, _, _, _, _, _, rfl⟩

/-- Each command that makes a transaction comes to its completion when the first one fails. -/
theorem command_fails {i : Instr} (hinit : s.inited = true) (hidle : s.dphase = .idle)
    (hc : s.chunk = []) (hn : n.toNat ≤ s.cap.toNat) (hvalid : s.cfg.valid = true)
    (htp : s.tp = .err e sent :: tp)
    (hi : i = .sendNoWait id n ∨ i = .sendWaitReply id n ∨ i = .sendWaitAck id n ∨ i = .readAll) :
    ∃ u t, exec i s = .next u ∧ Reaches u t ∧ s.failsTo e tp t := by
  obtain ⟨hsends, hreadAll⟩ := commandsAccepted s id n hinit hidle
  obtain ⟨hnoWait, hreply, hack⟩ := hsends hn
  rcases hi with rfl | rfl | rfl | rfl
  · obtain ⟨t, hr, hend⟩ := reaches_failedSend (st := .none) (k := .noWait) hc hn htp (.inl rfl)
    exact ⟨_, t, hnoWait, .run hc rfl rfl hr, hend⟩
  · obtain ⟨t, hr, hend⟩ := reaches_failedSend (st := .matchReply) (k := .reply) hc hn htp (.inl rfl)
    exact ⟨_, t, hreply, .run hc rfl rfl hr, hend⟩
  · obtain ⟨t, hr, hend⟩ := reaches_failedSend (st := .none) (k := .ack) hc hn htp (.inr rfl)
    exact ⟨_, t, hack, hr, hend⟩
  · obtain ⟨t, hr, hend⟩ := reaches_failedScan hvalid hc htp
    exact ⟨_, t, hreadAll, hr, hend⟩

/-- Settles O42: every command comes to the one failed state, whose fields are read off. -/
theorem transportFailureEndsTheCommand : Obligations.TransportFailureEndsTheCommand := by
  intro s id n e sent tp i hinit hidle hc hn hvalid htp hi
  obtain ⟨u, t, hexec, hreach, hend⟩ := command_fails hinit hidle hc hn hvalid htp hi
  refine exists_runFrom hexec hreach ?_
  obtain ⟨_, _, _, _, _, _, _, rfl⟩ := hend
  refine ⟨rfl, rfl, rfl, rfl, rfl, rfl, rfl, rfl, hc, fun _ => rfl, ?registers⟩
  intro r hr
  cases r
  case idleRun | intCb | awaitId | matchResult | rxLen | stopSeen | outcome | ioCode | dphase
    | txCkA | txCkB => exact absurd hr (by decide)
  all_goals rfl

end Sys2Proof.Machine
end

section
/-!
PROOFS, reset: what INIT alone may write (70_reset_and_hazards.md R232). No step writes the configuration
record, and a step that took up no INIT leaves `cap`, `api_en` and `inited` alone.
-/

namespace Sys2Proof.Machine

variable {s t : State}

theorem Confined.cfg (h : Confined s t) : t.cfg = s.cfg := congrArg (·.1) h.setup

theorem Confined.apiEn (h : Confined s t) : t.apiEn = s.apiEn := congrArg (·.2.2.1) h.setup

theorem Confined.inited (h : Confined s t) : t.inited = s.inited := congrArg (·.2.2.2.1) h.setup

/-- Settles O51: a confined step writes none of the four, a completion none either, and INIT not the
configuration. -/
theorem onlyInitReconfigures : Obligations.OnlyInitReconfigures := by
  intro s t h
  cases step_frame h with
  | confined hst =>
    exact ⟨hst.cfg, fun hne => absurd hne (by simp [hst.cap, hst.apiEn, hst.inited])⟩
  | init hf hu h =>
    obtain ⟨-, rfl⟩ := execInit_eq_next.mp h
    exact ⟨hu.cfg, fun _ => ⟨_, _, _, hf⟩⟩
  | finish _ hu h =>
    obtain ⟨o, e, rfl⟩ := finishCommand_eq_next h
    exact ⟨hu.cfg, fun hne => absurd hne (by simp [hu.cap, hu.apiEn, hu.inited])⟩

end Sys2Proof.Machine
end
